-- ==== Sys2Proof/Word.lean ====
section
/-! DEFINITION. The widths the spec fixes (00_scope.md R8): bytes, the 16-bit values of the CRC family and of the
stream, and the 32-bit command word (30_encoding.md R70). Counts and indices are natural numbers (10_state.md R26, R27). -/

namespace Sys2Proof

/-- A byte, the spec's `u8` (R8): one byte of the stream, one element of a payload. -/
abbrev Byte := BitVec 8

/-- A 16-bit value, the spec's `u16` (R8): a remainder, a stream word, an entry of TABLE. -/
abbrev Half := BitVec 16

/-- A command word: 32 bits presented whole, with no byte order (R70, R78). -/
abbrev CmdWord := BitVec 32

end Sys2Proof
end

