-- ==== Sys2Proof/Syntax.lean ====
section
/-! DEFINITION. The nine commands of the block, one constructor per row of the opcode map (30_encoding.md R74),
with the operands R73 gives them. -/

namespace Sys2Proof

/-- A command (R74). Operands are unsigned fields of the command word (R73). -/
inductive Instr where
  /-- CRC.LOAD imm16 (R96). -/
  | crcLoad (imm16 : Half)
  /-- CRC.INIT (R97). -/
  | crcInit
  /-- CRC.BYTE imm8 (R98). -/
  | crcByte (imm8 : Byte)
  /-- FR.OPEN be, n (R111): `be` is the declared byte order (true: big-endian), `n` the payload word count. -/
  | frOpen (be : Bool) (n : Half)
  /-- FR.READW imm16 (R112): `count` words. -/
  | frReadw (count : Half)
  /-- FR.NEXT (R114). -/
  | frNext
  /-- FR.ALL (R115). -/
  | frAll
  /-- FR.CLOSE (R116). -/
  | frClose
  /-- RDREG r (R140): `r` is a register number; 10 to 255 are illegal (R75, R141). -/
  | rdreg (r : Byte)
  deriving DecidableEq, Repr

end Sys2Proof
end

