-- ==== Sys2Proof/WellFormed.lean ====
section
/-! DEFINITION. Which terms of `Instr` are commands: the one operand the spec restricts beyond its width is the
register number of RDREG (30_encoding.md R75(c), 42_system.md R141). -/

namespace Sys2Proof

/-- The command is legal: a register number is below 10 (R75(c)); every other operand may take every value of its
field (R73). -/
def Instr.wf : Instr → Bool
  | .crcLoad _ => true
  | .crcInit => true
  | .crcByte _ => true
  | .frOpen _ _ => true
  | .frReadw _ => true
  | .frNext => true
  | .frAll => true
  | .frClose => true
  | .rdreg r => r.toNat < 10

end Sys2Proof
end

