-- ==== Sys2Proof/Decode.lean ====
section
/-! DEFINITION. Command word to command and back (30_encoding.md R71 to R76). Decoding depends on the word alone
(R77). -/

namespace Sys2Proof

/-- Why a command word is illegal: the three cases of R75. -/
inductive Illegal where
  /-- R75(a): `op` is none of the nine opcodes. -/
  | reservedOpcode
  /-- R75(b): a must-be-zero bit of the format is 1. -/
  | mustBeZero
  /-- R75(c): RDREG with a register number above 9. -/
  | registerNumber
  deriving DecidableEq, Repr

/-- `cmd[31:24]` (R71). -/
def opField (cmd : CmdWord) : Byte := cmd.extractLsb' 24 8

/-- `cmd[15:0]` (R73). -/
def imm16Field (cmd : CmdWord) : Half := cmd.extractLsb' 0 16

/-- `cmd[7:0]` (R73). -/
def imm8Field (cmd : CmdWord) : Byte := cmd.extractLsb' 0 8

/-- `cmd[16]` (R73). -/
def beField (cmd : CmdWord) : Bool := cmd.getLsbD 16

/-- The command `i` where the bits `mbz` of `cmd`, the must-be-zero bits of its format (R72), are all 0. -/
def ifZero (mbz cmd : CmdWord) (i : Instr) : Except Illegal Instr :=
  if cmd &&& mbz = 0#32 then .ok i else .error .mustBeZero

/-- RDREG with register number `r` (R75(c)). -/
def ifRegister (r : Byte) (e : Except Illegal Instr) : Except Illegal Instr :=
  match e with
  | .ok i => if r.toNat < 10 then .ok i else .error .registerNumber
  | .error x => .error x

/-- Decoding (R74): the opcode selects the row, the format's must-be-zero bits (R72) are checked, the operands are
assembled (R73). Every other word is illegal (R75), with the reason. -/
def decode (cmd : CmdWord) : Except Illegal Instr :=
  if opField cmd = 0x01#8 then ifZero 0x00FF0000#32 cmd (.crcLoad (imm16Field cmd))
  else if opField cmd = 0x02#8 then ifZero 0x00FFFFFF#32 cmd .crcInit
  else if opField cmd = 0x03#8 then ifZero 0x00FFFF00#32 cmd (.crcByte (imm8Field cmd))
  else if opField cmd = 0x10#8 then ifZero 0x00FE0000#32 cmd (.frOpen (beField cmd) (imm16Field cmd))
  else if opField cmd = 0x11#8 then ifZero 0x00FF0000#32 cmd (.frReadw (imm16Field cmd))
  else if opField cmd = 0x12#8 then ifZero 0x00FFFFFF#32 cmd .frNext
  else if opField cmd = 0x13#8 then ifZero 0x00FFFFFF#32 cmd .frAll
  else if opField cmd = 0x14#8 then ifZero 0x00FFFFFF#32 cmd .frClose
  else if opField cmd = 0x20#8 then
    ifRegister (imm8Field cmd) (ifZero 0x00FFFF00#32 cmd (.rdreg (imm8Field cmd)))
  else .error .reservedOpcode

/-- The decoder read over the opcode table's numbering (bit 0 the least significant bit of the one word, R71). A
command word has 32 bits, so a longer row is no command. -/
def decodeTableWord (nbits w : Nat) : Option Instr :=
  if nbits ≤ 32 then
    match decode (BitVec.ofNat 32 (w % 2 ^ nbits)) with
    | .ok i => some i
    | .error _ => none
  else none

/-- Bit 16 of a command word (R71). -/
def beBit (be : Bool) : CmdWord := if be then 0x00010000#32 else 0#32

/-- Encoding, from R81's list: the match value of the row (R74) with the operands in their fields. -/
def encode : Instr → CmdWord
  | .crcLoad v => 0x01000000#32 ||| v.setWidth 32
  | .crcInit => 0x02000000#32
  | .crcByte b => 0x03000000#32 ||| b.setWidth 32
  | .frOpen be n => 0x10000000#32 ||| beBit be ||| n.setWidth 32
  | .frReadw c => 0x11000000#32 ||| c.setWidth 32
  | .frNext => 0x12000000#32
  | .frAll => 0x13000000#32
  | .frClose => 0x14000000#32
  | .rdreg r => 0x20000000#32 ||| r.setWidth 32

end Sys2Proof
end

