-- ==== Sys2Proof/Machine/CrcCore.lean ====
section
/-! DEFINITION. The pure functions of the CRC16 Engine (40_crc_engine.md R90 to R95): the table-driven step, the
bit-by-bit reference it is held to, `Update` and `Checksum`. -/

namespace Sys2Proof.Machine

/-- `CRC_INIT`, the remainder at the start of `Checksum` (R7, R95). -/
def crcInitValue : Half := 0xFFFF#16

/-- `CRC_POLY_REFL`, 0x8005 with its 16 bits reversed (R92). -/
def polyReflected : Half := 0xA001#16

/-- `(crc XOR b) AND 0xFF` (R90), the 8-bit index into TABLE: `b` meets the low byte of `crc` alone. -/
def tableIndex (crc : Half) (b : Byte) : Byte := (crc ^^^ b.setWidth 16).setWidth 8

/-- `Step(crc, b)` (R90). -/
def crcStep (crc : Half) (b : Byte) : Half := tableAt (tableIndex crc b) ^^^ (crc >>> 8)

/-- One of the eight shifts of R91. -/
def shiftOnce (r : Half) : Half := if r.getLsbD 0 then (r >>> 1) ^^^ polyReflected else r >>> 1

/-- `k` shifts of R91. -/
def shiftTimes : Nat → Half → Half
  | 0, r => r
  | k + 1, r => shiftTimes k (shiftOnce r)

/-- `StepBits(crc, b)`, the bit-by-bit reference (R91). -/
def stepBits (crc : Half) (b : Byte) : Half := shiftTimes 8 (crc ^^^ b.setWidth 16)

/-- `Update(d, c)` (R94): the bytes are folded in index order. -/
def crcUpdate (d : List Byte) (c : Half) : Half :=
  match d with
  | [] => c
  | b :: rest => crcUpdate rest (crcStep c b)

/-- `Checksum(d)` (R95): no final XOR. -/
def checksum (d : List Byte) : Half := crcUpdate d crcInitValue

end Sys2Proof.Machine
end

