-- ==== Sys2Proof/Config.lean ====
section
/-! DEFINITION. The parameters of the block that an implementation fixes (00_scope.md R7). -/

namespace Sys2Proof.Config

/-- What a next-frame attempt answers when no word is left at a frame boundary (R7, R113, decision D11). -/
inductive EofPolicy where
  /-- The attempt fails with `Error(FORMAT_ERROR, 1)`: the spec's default. -/
  | formatError
  /-- The attempt answers `EndOfStream` and the pass is Terminated. -/
  | endOfStream
  deriving DecidableEq, Repr

/-- The parameters of the step relation (10_state.md R41). DESIGN CHOICE (safe, log 3): State carries them as a
constant, so that every statement about a state is a statement for every value of the parameters. -/
structure Params where
  /-- `HOST_BE`: the host's native byte order is big-endian. -/
  hostBE : Bool
  /-- `EOF_POLICY`. -/
  eofPolicy : EofPolicy
  deriving DecidableEq, Repr

/-- The values the spec gives as defaults (R7): a little-endian host, `format_error`. -/
def Params.default : Params := { hostBE := false, eofPolicy := .formatError }

/-- `BUF_WORDS`, the capacity of the word buffer (R7, decision D27). -/
def bufWords : Nat := 65536

end Sys2Proof.Config
end

