-- ==== Sys2Proof/Machine/State.lean ====
section
/-! DEFINITION. The state of the block as plain data (10_state.md R20), the typed responses (30_encoding.md R79), the
host actions (00_scope.md R10), the reasons a step can stop, and the state after reset (10_state.md R40). -/

namespace Sys2Proof.Machine

open Sys2Proof.Config

/-- RSTATE, the read-pass state (R28); its 2-bit codes are `RState.code`. -/
inductive RState where
  | idle
  | reading
  | terminated
  | failed
  deriving DecidableEq, Repr

/-- The kinds of error that go through `Fail` (60_exceptions.md R150, R155). -/
inductive ErrKind where
  /-- IO_ERROR (R151). -/
  | io
  /-- FORMAT_ERROR (R152). -/
  | format
  /-- INTEGRITY_ERROR (R153). -/
  | integrity
  deriving DecidableEq, Repr

/-- A response, the typed value every command answers with (R79). -/
inductive Response where
  /-- `Ok(v)`, `v` a natural number. -/
  | ok (v : Nat)
  /-- `Words(ws)`. -/
  | words (ws : List Half)
  /-- `Frame(payload, checksum)`. -/
  | frame (payload : List Byte) (checksum : Half)
  /-- `EndOfStream`. -/
  | endOfStream
  /-- `Error(kind, cause)` with the kind's numeric code: IO_ERROR 0x80 or FORMAT_ERROR 0x81 in every state a run
  reaches (log 10). -/
  | error (kind cause : Byte)
  /-- `Error(INTEGRITY_ERROR, stored, computed)`. -/
  | integrityError (stored computed : Half)
  /-- `Error(ILLEGAL_COMMAND)`. -/
  | illegalCommand
  deriving DecidableEq, Repr

/-- What the host may do (R10, R186): the actions of a program. -/
inductive HostAction where
  /-- RESET, a signal (R180). -/
  | reset
  /-- `BIND(src)` (R37): `none` is `absent`. -/
  | bind (src : Option (List Byte))
  /-- A command word on the command port (R70). -/
  | command (cmd : CmdWord)
  deriving DecidableEq, Repr

/-- Why a step can stop with a fault. -/
inductive Fault where
  /-- A read of a byte of STREAM at an address that does not exist (R52: addresses are 0 to `2*WLEN-1`). Raised by
  FR.READW, FR.NEXT and FR.ALL, and only in a state where `2*WLEN` exceeds the length of STREAM, which no run reaches
  (R39(d)). DESIGN CHOICE, safe (log 8). -/
  | streamAddress
  deriving DecidableEq, Repr

/-- Why a step can be refused. -/
inductive Refusal where
  /-- The command has no meaning in the model yet. Raised by no arm of `exec`: every command has its meaning. Safe. -/
  | notModelled (mnemonic : String)
  deriving DecidableEq, Repr

/-- The state of the block (R20): its registers, its memories, its two traces; then the model's own fields, which
carry the parameters and the inputs of the step relation (R41, log 1, log 3, log 4). -/
structure State where
  /-- CRC, the host-visible remainder (R21). -/
  crc : Half
  /-- FCRC, the Frame Reader's remainder (R22). -/
  fcrc : Half
  /-- BUF, the words written since reset, from index 0 up (R24, R59, log 6). -/
  buf : List Half
  /-- RSTATE (R28). -/
  rstate : RState
  /-- CFG bit 0, DECL_BE (R29). -/
  declBE : Bool
  /-- CFG bit 3, HOPEN (R29). -/
  hopen : Bool
  /-- NPAY (R30). -/
  npay : Half
  /-- CUR, the word cursor (R26). -/
  cur : Nat
  /-- WLEN, the length of STREAM in words (R27). -/
  wlen : Nat
  /-- ERR, cause in bits 15:8 and kind in bits 7:0 (R31). -/
  err : Half
  /-- ERRSTORED (R32). -/
  errStored : Half
  /-- ERRCOMPUTED (R33). -/
  errComputed : Half
  /-- SRC, the bound source; `none` is `absent` (R37). -/
  src : Option (List Byte)
  /-- STREAM, the snapshot, byte address 0 first (R37, R52). -/
  stream : List Byte
  /-- FOUT, the frame-port trace, oldest payload first (R36). -/
  fout : List (List Byte)
  /-- RESP, the response trace, oldest response first (R38). -/
  resp : List Response
  /-- The parameters HOST_BE (CFG bit 1) and EOF_POLICY (R7, R41); no step writes them. -/
  params : Params
  /-- The draws IOFAIL still to come, oldest first (R63, D22, log 4). -/
  ioDraws : List Bool
  /-- The host actions still to be performed, oldest first (R10, log 1). -/
  host : List HostAction
  deriving DecidableEq, Repr

/-- The state after reset for given parameters (R40, R180, R181), with no host action and no draw pending. -/
def State.resetWith (p : Params) : State where
  crc := 0xFFFF#16
  fcrc := 0xFFFF#16
  buf := []
  rstate := .idle
  declBE := false
  hopen := false
  npay := 0#16
  cur := 0
  wlen := 0
  err := 0#16
  errStored := 0#16
  errComputed := 0#16
  src := none
  stream := []
  fout := []
  resp := []
  params := p
  ioDraws := []
  host := []

/-- The state after reset with the spec's default parameters (R40, R7). -/
def State.reset : State := State.resetWith Params.default

end Sys2Proof.Machine
end

