-- ==== Sys2Proof/Machine/Operands.lean ====
section
/-! DEFINITION. How operands and results are formed: stream words and their byte order (20_memory.md R54, R55), the
host image of a word (R57, R58), the numeric codes (10_state.md R28, 60_exceptions.md R155, 30_encoding.md R79), and
the registers by number (10_state.md R29, R35). -/

namespace Sys2Proof.Machine

/-- `SENTINEL`, the end-of-data marker (00_scope.md R7). -/
def sentinel : Half := 0xA5A5#16

/-- `SWAP = DECL_BE XOR HOST_BE` (R29): every word is byte-swapped after reading. -/
def State.swap (s : State) : Bool := s.declBE ^^ s.params.hostBE

/-- The native read of two stream bytes, lower address first (R54). -/
def nativeWord (hostBE : Bool) (b0 b1 : Byte) : Half :=
  if hostBE then (b0.setWidth 16 <<< 8) ||| b1.setWidth 16
  else (b1.setWidth 16 <<< 8) ||| b0.setWidth 16

/-- The byte swap of R55. -/
def swapBytes (w : Half) : Half := ((w &&& 0xFF#16) <<< 8) ||| (w >>> 8)

/-- The value of a stream word from its two bytes (R55): the native read, swapped when SWAP is 1. -/
def wordValue (s : State) (b0 b1 : Byte) : Half :=
  if s.swap then swapBytes (nativeWord s.params.hostBE b0 b1) else nativeWord s.params.hostBE b0 b1

/-- `HostBytes(w)` (R57): the two bytes of `w` in the host's memory, lower address first. -/
def hostBytes (hostBE : Bool) (w : Half) : List Byte :=
  if hostBE then [(w >>> 8).setWidth 8, w.setWidth 8] else [w.setWidth 8, (w >>> 8).setWidth 8]

/-- The host image of a list of words (R57), the payload bytes of R58. -/
def payloadBytes (hostBE : Bool) (ws : List Half) : List Byte :=
  match ws with
  | [] => []
  | w :: rest => hostBytes hostBE w ++ payloadBytes hostBE rest

/-- The 2-bit code of RSTATE (R28). -/
def RState.code : RState → Nat
  | .idle => 0
  | .reading => 1
  | .terminated => 2
  | .failed => 3

/-- The kind code, the response status and `ERR[7:0]` (R155). -/
def ErrKind.code : ErrKind → Byte
  | .io => 0x80#8
  | .format => 0x81#8
  | .integrity => 0x82#8

/-- The status code of a response (R79). -/
def Response.status : Response → Byte
  | .ok _ => 0x00#8
  | .words _ => 0x01#8
  | .frame _ _ => 0x02#8
  | .endOfStream => 0x03#8
  | .error kind _ => kind
  | .integrityError _ _ => 0x82#8
  | .illegalCommand => 0x8F#8

/-- `(cause << 8) OR kind`, the value of ERR (R31, R160). -/
def errValue (kind : ErrKind) (cause : Byte) : Half := (cause.setWidth 16 <<< 8) ||| kind.code.setWidth 16

/-- `ERR[7:0]` (R31). -/
def State.errKind (s : State) : Byte := s.err.extractLsb' 0 8

/-- `ERR[15:8]` (R31). -/
def State.errCause (s : State) : Byte := s.err.extractLsb' 8 8

/-- One bit as a 16-bit value. -/
def bitValue (b : Bool) : Half := if b then 1#16 else 0#16

/-- CFG as RDREG reads it (R29): `HOPEN<<3 OR SWAP<<2 OR HOST_BE<<1 OR DECL_BE`, bits 15:4 read as 0. -/
def State.cfg (s : State) : Half :=
  (bitValue s.hopen <<< 3) ||| (bitValue s.swap <<< 2) ||| (bitValue s.params.hostBE <<< 1) ||| bitValue s.declBE

/-- The value of register `r` as a natural number (R35, R140); none where the number names no register. -/
def State.register (s : State) (r : Byte) : Option Nat :=
  match r.toNat with
  | 0 => some s.crc.toNat
  | 1 => some s.fcrc.toNat
  | 2 => some s.rstate.code
  | 3 => some s.cfg.toNat
  | 4 => some s.npay.toNat
  | 5 => some s.cur
  | 6 => some s.wlen
  | 7 => some s.err.toNat
  | 8 => some s.errStored.toNat
  | 9 => some s.errComputed.toNat
  | _ => none

end Sys2Proof.Machine
end

