-- ==== Sys2Proof/Machine/Ops.lean ====
section
/-! DEFINITION. The operations every command shares: responding and emitting (00_scope.md R9), reading STREAM
(20_memory.md R52, R55), writing BUF (R59), the draw IOFAIL (R63), entering an error (60_exceptions.md R160), the
gate of the reading commands (41_frame_reader.md R117), and leaving a pass. There is no return from an error
(60_exceptions.md R163): the ways out of Failed are FR.OPEN (`State.beginOpen`) and RESET (`State.applyReset`). -/

namespace Sys2Proof.Machine

/-! ### The memories -/

/-- `STREAM[a]` (R52): none where the address does not exist. -/
def State.streamByte (s : State) (a : Nat) : Option Byte := s.stream[a]?

/-- `BUF[k]` where it has been written since reset (R59). -/
def State.bufWord (s : State) (k : Nat) : Option Half := s.buf[k]?

/-- The form of the memories: STREAM has exactly the byte addresses 0 to `2*WLEN-1` (R52), and BUF is within its
capacity (R59). -/
def Memory.wf (s : State) : Bool := s.stream.length == 2 * s.wlen && decide (s.buf.length ≤ Config.bufWords)

/-- `Word(i)` (R55); none where one of its bytes does not exist. -/
def State.word (s : State) (i : Nat) : Option Half :=
  match s.streamByte (2 * i), s.streamByte (2 * i + 1) with
  | some b0, some b1 => some (wordValue s b0 b1)
  | _, _ => none

/-- `Word(p)`, `Word(p+1)`, … , `Word(p+n-1)`, in increasing order (R63, R64); none where one does not exist. -/
def State.wordsFrom (s : State) (p : Nat) : Nat → Option (List Half)
  | 0 => some []
  | n + 1 =>
    match s.word p, s.wordsFrom (p + 1) n with
    | some w, some ws => some (w :: ws)
    | _, _ => none

/-- `BUF[k] <- ws[k]` for every `k` below the length of `ws` (R59): the rest of BUF is unchanged. -/
def State.writeBuf (ws : List Half) (s : State) : State := { s with buf := ws ++ s.buf.drop ws.length }

/-- `CUR <- p`. -/
def State.setCur (p : Nat) (s : State) : State := { s with cur := p }

/-! ### Responses, frames, draws -/

/-- `respond r` (R9, R38). -/
def State.respond (r : Response) (s : State) : State := { s with resp := s.resp ++ [r] }

/-- `emit p` (R9, R36). -/
def State.emit (p : List Byte) (s : State) : State := { s with fout := s.fout ++ [p] }

/-- The draw IOFAIL of the reading step that consults it (R63). Past the end of the list the environment is the
fault-free one, the spec's default (R7, D22). DESIGN CHOICE, unsafe for a claim about a state whose list is shorter
than its draws (log 4). -/
def State.ioFail (s : State) : Bool := s.ioDraws.headD false

/-- The draw has been consulted (log 5). -/
def State.useDraw (s : State) : State := { s with ioDraws := s.ioDraws.tail }

/-! ### Errors -/

/-- `Fail(kind, cause)` (R160): the entry of every error raised while RSTATE is Reading. -/
def fail (kind : ErrKind) (cause : Byte) (s : State) : Response × State :=
  let t := { s with err := errValue kind cause, rstate := .failed, hopen := false }
  match kind with
  | .io => (.error ErrKind.io.code cause, t)
  | .format => (.error ErrKind.format.code cause, t)
  | .integrity => (.integrityError s.errStored s.errComputed, t)

/-- `LatchedError()` (R117): the error that ended the pass, rebuilt from ERR, ERRSTORED and ERRCOMPUTED. -/
def State.latchedError (s : State) : Response :=
  if s.errKind = ErrKind.integrity.code then .integrityError s.errStored s.errComputed
  else .error s.errKind s.errCause

/-- `ReaderGate()` (R117): the answer of a reading command outside Reading, none in Reading. -/
def State.readerGate (s : State) : Option Response :=
  match s.rstate with
  | .idle => some (.error ErrKind.io.code 2#8)
  | .terminated => some .endOfStream
  | .failed => some s.latchedError
  | .reading => none

/-- The pass ends without an error (R113): Terminated, and the handle is released (R185). -/
def State.terminate (s : State) : State := { s with rstate := .terminated, hopen := false }

/-! ### The end of a step -/

/-- The step ends with the response, or stops where STREAM had no such byte. -/
def finish (r : Except Fault (Response × State)) : Host.Outcome State Fault Refusal :=
  match r with
  | .ok (v, t) => .next (t.respond v)
  | .error f => .fault f

/-- A reading command (R112, R114, R115): the gate first, then the command's own procedure. -/
def throughGate (body : State → Except Fault (Response × State)) (s : State) : Host.Outcome State Fault Refusal :=
  match s.readerGate with
  | some v => .next (s.respond v)
  | none => finish (body s)

/-- `Error(ILLEGAL_COMMAND)` (R75, R154): only the response trace changes. -/
def illegal (s : State) : Host.Outcome State Fault Refusal := .next (s.respond .illegalCommand)

/-! ### Opening a stream, and reset -/

/-- Parts 1 and 2 of FR.OPEN (41_frame_reader.md R111): end whatever pass existed, latch the configuration. -/
def State.beginOpen (be : Bool) (n : Half) (s : State) : State :=
  { s with
    rstate := .idle, hopen := false, cur := 0, wlen := 0, stream := [],
    err := 0#16, errStored := 0#16, errComputed := 0#16, fcrc := 0xFFFF#16,
    declBE := be, npay := n }

/-- The snapshot of a successful FR.OPEN (R111, R37). -/
def State.snapshot (bytes : List Byte) (s : State) : State :=
  { s with stream := bytes, wlen := bytes.length / 2, hopen := true, rstate := .reading }

/-- ERR of a failing FR.OPEN (R111): RSTATE stays Idle. -/
def State.openError (kind : ErrKind) (s : State) : State := { s with err := errValue kind 0#8 }

/-- RESET (70_reset_and_hazards.md R180): the state of R40 for the same parameters. The host's further actions and
the environment's further draws are not the block's state and stay (log 11). -/
def State.applyReset (s : State) : State :=
  { State.resetWith s.params with host := s.host, ioDraws := s.ioDraws }

end Sys2Proof.Machine
end

