-- ==== Sys2Proof/Machine/CrcEngine.lean ====
section
/-! DEFINITION. The commands of the CRC16 Engine (40_crc_engine.md R96 to R98). Each works in every RSTATE, touches
CRC alone and answers with its new value. -/

namespace Sys2Proof.Machine

/-- `CRC <- v; respond Ok(CRC)`. -/
def State.setCrc (v : Half) (s : State) : State := { s with crc := v }

/-- CRC.LOAD imm16 (R96). -/
def execCrcLoad (imm16 : Half) (s : State) : Host.Outcome State Fault Refusal :=
  .next ((s.setCrc imm16).respond (.ok imm16.toNat))

/-- CRC.INIT (R97). -/
def execCrcInit (s : State) : Host.Outcome State Fault Refusal :=
  .next ((s.setCrc crcInitValue).respond (.ok crcInitValue.toNat))

/-- CRC.BYTE imm8 (R98). -/
def execCrcByte (imm8 : Byte) (s : State) : Host.Outcome State Fault Refusal :=
  .next ((s.setCrc (crcStep s.crc imm8)).respond (.ok (crcStep s.crc imm8).toNat))

end Sys2Proof.Machine
end

