-- ==== Sys2Proof/Machine/Flags.lean ====
section
/-! DEFINITION. The block has no condition codes (10_state.md R34): its only conditions are the two comparisons that
FR.NEXT and FR.ALL make and consume in the same step. -/

namespace Sys2Proof.Machine

/-- The lookahead word is the sentinel (41_frame_reader.md R118), compared after the byte swap. -/
def isSentinel (w : Half) : Bool := w == sentinel

/-- The computed and the stored checksum are equal (R113): a direct comparison, no residue (40_crc_engine.md R99). -/
def checksumMatches (computed stored : Half) : Bool := computed == stored

end Sys2Proof.Machine
end

