-- ==== Sys2Proof/Machine/FrameReader.lean ====
section
/-! DEFINITION. The commands of the Frame Reader (41_frame_reader.md R110 to R118) and the procedures behind them:
`ReadWords` (20_memory.md R63) and `NextFrame` (R113). The tests stand in the order R158 gives them. -/

namespace Sys2Proof.Machine

open Sys2Proof.Config

/-! ### FR.OPEN -/

/-- FR.OPEN be, n (R111). An absent source is reported before the size is looked at (D29). -/
def execFrOpen (be : Bool) (n : Half) (s : State) : Host.Outcome State Fault Refusal :=
  match s.src with
  | none => .next (((s.beginOpen be n).openError .io).respond (.error ErrKind.io.code 0#8))
  | some bytes =>
    if bytes.length % 2 ≠ 0 then
      .next (((s.beginOpen be n).openError .format).respond (.error ErrKind.format.code 0#8))
    else .next (((s.beginOpen be n).snapshot bytes).respond (.ok (bytes.length / 2)))

/-! ### FR.READW -/

/-- What `ReadWords` returns (20_memory.md R63). -/
inductive ReadResult where
  | words (ws : List Half)
  | failure (kind : ErrKind) (cause : Byte)
  deriving DecidableEq, Repr

/-- `ReadWords(count, io)` (20_memory.md R63), with the state after it; a failing read consumes no word. -/
def readWords (count : Nat) (s : State) : Except Fault (ReadResult × State) :=
  if s.hopen = false then .ok (.failure .io 2#8, s)
  else if s.ioFail then .ok (.failure .io 1#8, s.useDraw)
  else if s.wlen - s.cur < count then .ok (.failure .format 1#8, s.useDraw)
  else
    match s.wordsFrom s.cur count with
    | none => .error .streamAddress
    | some ws => .ok (.words ws, (s.useDraw.writeBuf ws).setCur (s.cur + count))

/-- What FR.READW does in Reading (R112): a failure enters Failed, words are answered. -/
def readwBody (count : Nat) (s : State) : Except Fault (Response × State) :=
  match readWords count s with
  | .error f => .error f
  | .ok (.failure kind cause, t) => .ok (fail kind cause t)
  | .ok (.words ws, t) => .ok (.words ws, t)

/-- FR.READW imm16 (R112). -/
def execFrReadw (count : Half) (s : State) : Host.Outcome State Fault Refusal :=
  throughGate (readwBody count.toNat) s

/-! ### FR.NEXT -/

/-- FCRC and, on a mismatch, ERRSTORED and ERRCOMPUTED. -/
def State.setFcrc (v : Half) (s : State) : State := { s with fcrc := v }

/-- `ERRSTORED <- stored; ERRCOMPUTED <- computed` (R113). -/
def State.setErrValues (stored computed : Half) (s : State) : State :=
  { s with errStored := stored, errComputed := computed }

/-- The end of `NextFrame` (R113), once the frame's payload words and its checksum word are read: FCRC is computed,
the two checksums are compared, the payload is emitted or the pass fails. -/
def checkFrame (payloadWords : List Half) (stored : Half) (s : State) : Response × State :=
  let payload := payloadBytes s.params.hostBE payloadWords
  let computed := checksum payload
  if checksumMatches computed stored then (.frame payload stored, (s.setFcrc computed).emit payload)
  else fail .integrity 0#8 ((s.setFcrc computed).setErrValues stored computed)

/-- No word is left at a frame boundary (R113): the parameter EOF_POLICY decides. -/
def endOfFile (s : State) : Response × State :=
  match s.params.eofPolicy with
  | .formatError => fail .format 1#8 s
  | .endOfStream => (.endOfStream, s.terminate)

/-- A whole frame of `NPAY + 1` words is left at CUR (R113): BUF receives it and CUR moves past it. -/
def readFrame (s : State) : Except Fault (Response × State) :=
  match s.wordsFrom s.cur s.npay.toNat, s.word (s.cur + s.npay.toNat) with
  | some ws, some stored =>
    .ok (checkFrame ws stored ((s.writeBuf (ws ++ [stored])).setCur (s.cur + s.npay.toNat + 1)))
  | _, _ => .error .streamAddress

/-- `NextFrame` after the handle and the draw have been tested (R113): end of file, the sentinel, an incomplete
frame, a whole frame. -/
def nextFrameAt (s : State) : Except Fault (Response × State) :=
  if s.wlen - s.cur < 1 then .ok (endOfFile s)
  else
    match s.word s.cur with
    | none => .error .streamAddress
    | some w0 =>
      if isSentinel w0 then .ok (.endOfStream, (s.setCur (s.cur + 1)).terminate)
      else if s.wlen - s.cur < s.npay.toNat + 1 then .ok (fail .format 1#8 s)
      else readFrame s

/-- `NextFrame(io)` (R113). -/
def nextFrame (s : State) : Except Fault (Response × State) :=
  if s.hopen = false then .ok (fail .io 2#8 s)
  else if s.ioFail then .ok (fail .io 1#8 s.useDraw)
  else nextFrameAt s.useDraw

/-- FR.NEXT (R114). -/
def execFrNext (s : State) : Host.Outcome State Fault Refusal := throughGate nextFrame s

/-! ### FR.ALL -/

/-- The loop of FR.ALL (R115) with `k` further calls of `NextFrame` allowed after this one: a Frame continues the
loop, every other answer ends it. -/
def allFrames : Nat → State → Except Fault (Response × State)
  | 0, s => nextFrame s
  | k + 1, s =>
    match nextFrame s with
    | .ok (.frame _ _, t) => allFrames k t
    | r => r

/-- `floor((WLEN - CUR) / (NPAY + 1))`, the most frames FR.ALL can emit (R121); one call more ends it. -/
def State.frameBound (s : State) : Nat := (s.wlen - s.cur) / (s.npay.toNat + 1)

/-- FR.ALL (R115), run with R121's bound as its fuel (log 9). -/
def execFrAll (s : State) : Host.Outcome State Fault Refusal := throughGate (fun t => allFrames t.frameBound t) s

/-! ### FR.CLOSE -/

/-- FR.CLOSE (R116): HOPEN alone changes; the next read finds the handle closed. -/
def execFrClose (s : State) : Host.Outcome State Fault Refusal :=
  .next ({ s with hopen := false }.respond (.ok 0))

end Sys2Proof.Machine
end

