-- ==== Sys2Proof/Machine/System.lean ====
section
/-! DEFINITION. The system command RDREG (42_system.md R140, R141). -/

namespace Sys2Proof.Machine

/-- RDREG r (R140): answers the register's value and changes nothing else; a number above 9 is an illegal command
(R141). -/
def execRdreg (r : Byte) (s : State) : Host.Outcome State Fault Refusal :=
  match s.register r with
  | some v => .next (s.respond (.ok v))
  | none => illegal s

end Sys2Proof.Machine
end

