-- ==== Sys2Proof/Machine/Dispatch.lean ====
section
/-! DEFINITION. One arm per command (30_encoding.md R74). -/

namespace Sys2Proof.Machine

def exec (i : Instr) (s : State) : Host.Outcome State Fault Refusal :=
  match i with
  | .crcLoad imm16 => Sys2Proof.Machine.execCrcLoad imm16 s
  | .crcInit => Sys2Proof.Machine.execCrcInit s
  | .crcByte imm8 => Sys2Proof.Machine.execCrcByte imm8 s
  | .frOpen be n => Sys2Proof.Machine.execFrOpen be n s
  | .frReadw count => Sys2Proof.Machine.execFrReadw count s
  | .frNext => Sys2Proof.Machine.execFrNext s
  | .frAll => Sys2Proof.Machine.execFrAll s
  | .frClose => Sys2Proof.Machine.execFrClose s
  | .rdreg r => Sys2Proof.Machine.execRdreg r s

end Sys2Proof.Machine
end

