-- ==== Sys2Proof/Machine/Command.lean ====
section
/-! DEFINITION. What one host action does (00_scope.md R10, 70_reset_and_hazards.md R186): a command word is decoded
and executed, RESET and BIND act at once; and the pseudo-commands of 30_encoding.md R82 to R84. -/

namespace Sys2Proof.Machine

/-- One command word on the command port (R70): decoding comes before everything (R158), an illegal word answers
`Error(ILLEGAL_COMMAND)` in every state (R75). -/
def runCommand (cmd : CmdWord) (s : State) : Host.Outcome State Fault Refusal :=
  match decode cmd with
  | .ok i => exec i s
  | .error _ => illegal s

/-- One host action (R186). RESET and BIND answer nothing. -/
def perform (a : HostAction) (s : State) : Host.Outcome State Fault Refusal :=
  match a with
  | .reset => .next s.applyReset
  | .bind src => .next { s with src := src }
  | .command cmd => runCommand cmd s

/-- The host action that issues the command `i`. -/
def issue (i : Instr) : HostAction := .command (encode i)

/-- The pseudo-command `UPDATE d, c0` (R82). -/
def pseudoUpdate (d : List Byte) (c0 : Half) : List HostAction :=
  issue (.crcLoad c0) :: d.map fun b => issue (.crcByte b)

/-- The pseudo-command `CHECKSUM d` (R83). -/
def pseudoChecksum (d : List Byte) : List HostAction := issue .crcInit :: d.map fun b => issue (.crcByte b)

/-- The pseudo-command `CRC.GET` (R84). -/
def pseudoCrcGet : List HostAction := [issue (.rdreg 0#8)]

end Sys2Proof.Machine
end

