-- ==== Sys2Proof/Machine/Step.lean ====
section
/-! DEFINITION. One step of the machine: the next host action, executed to completion (00_scope.md R6, R10). -/

namespace Sys2Proof.Machine

/-- One step. With no action pending the block waits and does nothing (70_reset_and_hazards.md R182); otherwise the
oldest action is taken from the queue and performed. -/
def step (s : State) : Host.Outcome State Fault Refusal :=
  match s.host with
  | [] => .next s
  | a :: rest => perform a { s with host := rest }

/-- `s` with the command word `w` (its low `nbits` bits) as the next action the host issues (log 2). -/
def State.withFetchWord (s : State) (nbits w : Nat) : State :=
  { s with host := .command (BitVec.ofNat 32 (w % 2 ^ nbits)) :: s.host }

end Sys2Proof.Machine
end

