-- ==== Sys2Proof/Machine/Reference.lean ====
section
/-! DEFINITION. The spec's second descriptions of what the commands compute, which the statements hold the meanings
to: the opcode map as masks and matches (30_encoding.md R74), words by declared order (20_memory.md R56), payloads as
stream bytes (R58), the stream format a writer follows and what a valid frame is (41_frame_reader.md R119, R120), and
FR.NEXT repeated (R115). -/

namespace Sys2Proof.Machine

/-- The opcode map (R74): `(match, mask)` of the nine rows in the table's order. -/
def opcodeRows : List (CmdWord × CmdWord) :=
  [(0x01000000#32, 0xFFFF0000#32), (0x02000000#32, 0xFFFFFFFF#32), (0x03000000#32, 0xFFFFFF00#32),
   (0x10000000#32, 0xFFFE0000#32), (0x11000000#32, 0xFFFF0000#32), (0x12000000#32, 0xFFFFFFFF#32),
   (0x13000000#32, 0xFFFFFFFF#32), (0x14000000#32, 0xFFFFFFFF#32), (0x20000000#32, 0xFFFFFF00#32)]

/-- The word matches a row (R72), and is no RDREG with a register number above 9 (R75(c)). -/
abbrev legalWord (cmd : CmdWord) : Prop :=
  (∃ row ∈ opcodeRows, cmd &&& row.2 = row.1) ∧
    ¬ (cmd &&& 0xFF000000#32 = 0x20000000#32 ∧ 10 ≤ (cmd &&& 0xFF#32).toNat)

/-- The word of two stream bytes by the declared order alone (R56). -/
def declaredWord (declBE : Bool) (b0 b1 : Byte) : Half :=
  if declBE then (b0.setWidth 16 <<< 8) ||| b1.setWidth 16 else (b1.setWidth 16 <<< 8) ||| b0.setWidth 16

/-- Every pair of bytes exchanged (R58). -/
def exchangePairs : List Byte → List Byte
  | a :: b :: rest => b :: a :: exchangePairs rest
  | [a] => [a]
  | [] => []

/-- The payload of the frame at CUR as R58's second form gives it: the frame's `2*NPAY` stream bytes, with every pair
exchanged when SWAP is 1. -/
def State.frameImage (s : State) : List Byte :=
  let raw := (s.stream.drop (2 * s.cur)).take (2 * s.npay.toNat)
  if s.swap then exchangePairs raw else raw

/-- The two stream bytes at word index `i` are `b0` and `b1` (R52). -/
abbrev State.hasWordBytes (s : State) (i : Nat) (b0 b1 : Byte) : Prop :=
  s.streamByte (2 * i) = some b0 ∧ s.streamByte (2 * i + 1) = some b1

/-- `s` with the cursor moved past the next `j` frames (R26, R62: frames follow one another with no gap). -/
def State.atFrame (s : State) (j : Nat) : State := { s with cur := s.cur + j * (s.npay.toNat + 1) }

/-- The frame `j` frames past the cursor of `s` is valid with payload `p` (R113, R119): the payload is the frame's
image (R58), the first word is no sentinel, and the stored word is the payload's checksum. -/
structure State.ValidFrame (s : State) (j : Nat) (p : List Byte) : Prop where
  image : p = (s.atFrame j).frameImage
  whole : p.length = 2 * s.npay.toNat
  first : ∃ a0 a1, s.hasWordBytes (s.atFrame j).cur a0 a1 ∧ declaredWord s.declBE a0 a1 ≠ 0xA5A5#16
  stored : ∃ c0 c1, s.hasWordBytes ((s.atFrame j).cur + s.npay.toNat) c0 c1 ∧
    checksum p = declaredWord s.declBE c0 c1

/-- `s` with everything the Frame Reader has (10_state.md R20: FCRC, BUF, the read-pass registers, the error latches,
SRC, STREAM and FOUT), its parameters and its draws taken from `u`: all but CRC, RESP and the host's actions. -/
def State.withReaderOf (s u : State) : State := { u with crc := s.crc, resp := s.resp, host := s.host }

/-- The two bytes of a word in a stream of the declared order, lower address first (R56). -/
def wordBytes (declBE : Bool) (w : Half) : List Byte :=
  if declBE then [(w >>> 8).setWidth 8, w.setWidth 8] else [w.setWidth 8, (w >>> 8).setWidth 8]

/-- The words of a stream in the declared order. -/
def wordsBytes (declBE : Bool) (ws : List Half) : List Byte :=
  match ws with
  | [] => []
  | w :: rest => wordBytes declBE w ++ wordsBytes declBE rest

/-- A valid frame with payload words `ws` (R119): the words and the checksum of their host image. -/
def frameWords (hostBE : Bool) (ws : List Half) : List Half := ws ++ [checksum (payloadBytes hostBE ws)]

/-- The words of valid frames one after another (R62: no gap, header or padding), then the sentinel (R120). -/
def streamWords (hostBE : Bool) (frames : List (List Half)) : List Half :=
  match frames with
  | [] => [sentinel]
  | f :: rest => frameWords hostBE f ++ streamWords hostBE rest

/-- The answer is a Frame (R79). -/
def Response.isFrame : Response → Bool
  | .frame _ _ => true
  | .ok _ => false
  | .words _ => false
  | .endOfStream => false
  | .error _ _ => false
  | .integrityError _ _ => false
  | .illegalCommand => false

/-- FR.NEXT issued `k` times, stopping where one does not answer (R115). -/
def repeatNext : Nat → State → Host.Outcome State Fault Refusal
  | 0, s => .next s
  | k + 1, s =>
    match exec .frNext s with
    | .next t => repeatNext k t
    | .fault f => .fault f
    | .refused r => .refused r

/-- The outcome with the next state, where there is one, changed by `f`. -/
def mapNext (f : State → State) (o : Host.Outcome State Fault Refusal) : Host.Outcome State Fault Refusal :=
  match o with
  | .next s => .next (f s)
  | .fault x => .fault x
  | .refused x => .refused x

/-- The command belongs to the CRC16 Engine (40_crc_engine.md R96 to R98). -/
def isCrcCommand : Instr → Bool
  | .crcLoad _ => true
  | .crcInit => true
  | .crcByte _ => true
  | .frOpen _ _ => false
  | .frReadw _ => false
  | .frNext => false
  | .frAll => false
  | .frClose => false
  | .rdreg _ => false

/-- The command belongs to the Frame Reader (41_frame_reader.md R111 to R116). -/
def isReaderCommand : Instr → Bool
  | .crcLoad _ => false
  | .crcInit => false
  | .crcByte _ => false
  | .frOpen _ _ => true
  | .frReadw _ => true
  | .frNext => true
  | .frAll => true
  | .frClose => true
  | .rdreg _ => false

/-- FR.OPEN, the one command that begins a pass and writes the configuration (R110, 10_state.md R39(f)). -/
def isOpenCommand : Instr → Bool
  | .crcLoad _ => false
  | .crcInit => false
  | .crcByte _ => false
  | .frOpen _ _ => true
  | .frReadw _ => false
  | .frNext => false
  | .frAll => false
  | .frClose => false
  | .rdreg _ => false

/-- The commands that read the stream (R117): FR.READW, FR.NEXT and FR.ALL. -/
def isReadCommand : Instr → Bool
  | .crcLoad _ => false
  | .crcInit => false
  | .crcByte _ => false
  | .frOpen _ _ => false
  | .frReadw _ => true
  | .frNext => true
  | .frAll => true
  | .frClose => false
  | .rdreg _ => false

/-- The most words a reading command writes into BUF in one read (R59). -/
def bufReach (i : Instr) (s : State) : Nat :=
  match i with
  | .crcLoad _ => 0
  | .crcInit => 0
  | .crcByte _ => 0
  | .frOpen _ _ => 0
  | .frReadw count => count.toNat
  | .frNext => s.npay.toNat + 1
  | .frAll => s.npay.toNat + 1
  | .frClose => 0
  | .rdreg _ => 0

end Sys2Proof.Machine
end

