-- ==== Sys2Proof/Safety.lean ====
section
/-! DEFINITION. The invariants of the block (10_state.md R39) and what a safe run is: every command in every state
produces exactly one response, so a safe step always answers a next state (93_implementation_defined.md section 1). -/

namespace Sys2Proof.Safety

open Sys2Proof.Machine

/-- The invariants R39(a) to (e) and (h) that speak of one state, and the capacity of BUF (R59). R39(f) and (g) speak
of a step and are statements of their own. The history in R39(b), 'the last FR.OPEN succeeded', is no predicate of
one state. -/
structure Invariants (s : State) : Prop where
  /-- R39(a). -/
  handle : s.hopen = true → s.rstate = .reading
  /-- R39(b), first half. -/
  failedKind : s.rstate = .failed → s.errKind = 0x80#8 ∨ s.errKind = 0x81#8 ∨ s.errKind = 0x82#8
  /-- R39(b), second half. -/
  errorState : s.err ≠ 0#16 → s.rstate = .failed ∨ s.rstate = .idle
  /-- R39(c). -/
  idleCursor : s.rstate = .idle → s.cur = 0 ∧ s.wlen = 0
  /-- R39(d), first half. -/
  cursor : s.cur ≤ s.wlen
  /-- R39(d), second half: with the capacity of BUF (R59), the form of the memories. -/
  memory : Memory.wf s = true
  /-- R39(e) for both values of EOF_POLICY. -/
  terminatedBy : s.rstate = .terminated →
    (1 ≤ s.cur ∧ s.word (s.cur - 1) = some 0xA5A5#16) ∨
      (s.params.eofPolicy = .endOfStream ∧ s.cur = s.wlen)
  /-- R39(h). -/
  integrity : s.errKind = 0x82#8 → s.errStored ≠ s.errComputed ∧ s.errComputed = s.fcrc

/-- The step answers a next state: neither a fault nor a refusal. -/
def SafeStep (s : State) : Prop := ∃ t, step s = .next t

/-- A run of `k` steps answers a next state. -/
def SafeRun (k : Nat) (s : State) : Prop := ∃ t, Sys2Proof.core.run k s = .next t

end Sys2Proof.Safety
end

