-- ==== Sys2Proof/Certificates/Slice0/Obligations.lean ====
section
/-! DEFINITION. The statements for the provers, from the numbered rules of spec/. A statement about a step or a
command holds for every state, hence for every value of the parameters HOST_BE and EOF_POLICY and for every list of
draws IOFAIL. -/

open Sys2Proof Sys2Proof.Machine Sys2Proof.Safety

/-! ### Encoding and the command port -/

/-- R72, R73, R74, R81: encoding and decoding are inverse to each other on the legal commands, for every operand. -/
def Obligations.DecodeAndEncodeAgree : Prop :=
  (∀ i : Instr, i.wf = true → decode (encode i) = .ok i) ∧
  (∀ (w : CmdWord) (i : Instr), decode w = .ok i → i.wf = true ∧ encode i = w)

/-- R74, R81: words written out from the spec's encodings decode to the commands they stand for. -/
def Obligations.SpecWordsDecode : Prop :=
  decode 0x010030BA#32 = .ok (.crcLoad 0x30BA#16) ∧ decode 0x02000000#32 = .ok .crcInit ∧
  decode 0x03000031#32 = .ok (.crcByte 0x31#8) ∧ decode 0x10000002#32 = .ok (.frOpen false 2#16) ∧
  decode 0x10010002#32 = .ok (.frOpen true 2#16) ∧ decode 0x11000003#32 = .ok (.frReadw 3#16) ∧
  decode 0x12000000#32 = .ok .frNext ∧ decode 0x13000000#32 = .ok .frAll ∧
  decode 0x14000000#32 = .ok .frClose ∧ decode 0x20000009#32 = .ok (.rdreg 9#8)

/-- R75: exactly the words of the opcode map are legal, and an illegal word only appends its response, in every
state. -/
def Obligations.IllegalWordsOnlyAnswer : Prop :=
  (∀ w : CmdWord, (∃ i, decode w = .ok i) ↔ legalWord w) ∧
  ¬ legalWord 0x00000000#32 ∧ ¬ legalWord 0xFFFFFFFF#32 ∧
  (∀ (s : State) (w : CmdWord) (rest : List HostAction), s.host = .command w :: rest → ¬ legalWord w →
    step s = .next { s with host := rest, resp := s.resp ++ [.illegalCommand] })

/-- R70, R158: a step whose next host action is a command word that decodes to `i` is `exec i`, with the action taken
from the queue; the same for the word the host's interface places. -/
def Obligations.StepRunsTheDecodedCommand : Prop :=
  (∀ (s : State) (w : CmdWord) (rest : List HostAction) (i : Instr),
    s.host = .command w :: rest → decode w = .ok i → step s = exec i { s with host := rest }) ∧
  (∀ (s : State) (i : Instr), i.wf = true → step (s.withFetchWord 32 (encode i).toNat) = exec i s)

/-- R182: with no action pending the block waits and does nothing. -/
def Obligations.WaitsForTheNextAction : Prop :=
  ∀ s : State, s.host = [] → step s = .next s

/-- R180, R40: RESET puts every piece of state to its reset value, from any state. That the parameters, the actions
still to come and the draws stay is the model's choice (log 11), and that BUF is left with no known word is log 6. -/
def Obligations.ResetPutsEveryRegister : Prop :=
  ∀ (s : State) (rest : List HostAction), s.host = .reset :: rest →
    step s = .next
      { crc := 0xFFFF#16, fcrc := 0xFFFF#16, buf := [], rstate := .idle, declBE := false, hopen := false,
        npay := 0#16, cur := 0, wlen := 0, err := 0#16, errStored := 0#16, errComputed := 0#16, src := none,
        stream := [], fout := [], resp := [], params := s.params, ioDraws := s.ioDraws, host := rest }

/-- R186, R37: BIND changes SRC and nothing else, and answers nothing. -/
def Obligations.BindSetsTheSourceAlone : Prop :=
  ∀ (s : State) (src : Option (List Byte)) (rest : List HostAction), s.host = .bind src :: rest →
    step s = .next { s with host := rest, src := src }

/-- R40, R29, R181: what RDREG 0 to 9 answer right after reset, for each value of the parameters. -/
def Obligations.RegistersAfterReset : Prop :=
  ∀ p : Config.Params,
    (List.range 10).map (fun r => (State.resetWith p).register (BitVec.ofNat 8 r)) =
      [some 0xFFFF, some 0xFFFF, some 0, some (if p.hostBE then 6 else 0), some 0, some 0, some 0, some 0, some 0,
        some 0] ∧
    State.reset = State.resetWith { hostBE := false, eofPolicy := .formatError }

/-! ### The CRC16 Engine -/

/-- R90: the table-driven step, with an index that is always in range (R50). -/
def Obligations.CrcStepFormula : Prop :=
  ∀ (crc : Half) (b : Byte),
    ∃ e, TABLE[((crc ^^^ b.setWidth 16) &&& 0xFF#16).toNat]? = some e ∧
      crcStep crc b = (e ^^^ (crc >>> 8)) &&& 0xFFFF#16

/-- R93, R23: each of the 256 entries is the bit-by-bit remainder of its index; the three checks R93 lists. -/
def Obligations.TableHoldsTheRemainders : Prop :=
  TABLE.length = 256 ∧ (∀ i : Byte, tableAt i = stepBits 0#16 i) ∧
  (TABLE.map BitVec.toNat).sum = 8380544 ∧ TABLE.foldl (· ^^^ ·) 0#16 = 0#16 ∧
  (∀ a b : Byte, tableAt (a ^^^ b) = tableAt a ^^^ tableAt b)

/-- R91: the table-driven algorithm equals the bit-by-bit CRC-16/MODBUS, for every step and every byte sequence. -/
def Obligations.ChecksumMatchesTheBitwiseReference : Prop :=
  (∀ (crc : Half) (b : Byte), crcStep crc b = stepBits crc b) ∧
  (∀ d : List Byte, checksum d = d.foldl stepBits 0xFFFF#16)

/-- R94, R95: Update folds the bytes in index order; the empty sequence changes nothing; pieces compose; Checksum
starts at 0xFFFF. -/
def Obligations.UpdateFoldsInOrder : Prop :=
  (∀ (d : List Byte) (c : Half), crcUpdate d c = d.foldl crcStep c) ∧
  (∀ c : Half, crcUpdate [] c = c) ∧
  (∀ (d1 d2 : List Byte) (c : Half), crcUpdate (d1 ++ d2) c = crcUpdate d2 (crcUpdate d1 c)) ∧
  (∀ d : List Byte, checksum d = crcUpdate d 0xFFFF#16) ∧ checksum [] = 0xFFFF#16

/-- R123(b), the CRC's part: changing one byte of a sequence to any other value changes its remainder. -/
def Obligations.OneChangedByteChangesTheRemainder : Prop :=
  ∀ (before after : List Byte) (x y : Byte) (c : Half), x ≠ y →
    crcUpdate (before ++ x :: after) c ≠ crcUpdate (before ++ y :: after) c

/-- R96: CRC.LOAD's encoding, its one way to be illegal, its effect in every state, and its agreement with CRC.INIT. -/
def Obligations.CrcLoadEffect : Prop :=
  (∀ v : Half, decode (0x01000000#32 ||| v.setWidth 32) = .ok (.crcLoad v)) ∧
  (∀ w : CmdWord, w &&& 0xFF000000#32 = 0x01000000#32 → w &&& 0x00FF0000#32 ≠ 0#32 → ¬ ∃ i, decode w = .ok i) ∧
  (∀ (v : Half) (s : State),
    exec (.crcLoad v) s = .next { s with crc := v, resp := s.resp ++ [.ok v.toNat] }) ∧
  (∀ s : State, exec (.crcLoad 0xFFFF#16) s = exec .crcInit s)

/-- R97: CRC.INIT's encoding, its one way to be illegal, and its effect in every state. -/
def Obligations.CrcInitEffect : Prop :=
  decode 0x02000000#32 = .ok .crcInit ∧
  (∀ w : CmdWord, w &&& 0xFF000000#32 = 0x02000000#32 → w &&& 0x00FFFFFF#32 ≠ 0#32 → ¬ ∃ i, decode w = .ok i) ∧
  (∀ s : State, exec .crcInit s = .next { s with crc := 0xFFFF#16, resp := s.resp ++ [.ok 0xFFFF] })

/-- R98: CRC.BYTE's encoding, its one way to be illegal, its effect in every state, and R98's corner cases. -/
def Obligations.CrcByteEffect : Prop :=
  (∀ b : Byte, decode (0x03000000#32 ||| b.setWidth 32) = .ok (.crcByte b)) ∧
  (∀ w : CmdWord, w &&& 0xFF000000#32 = 0x03000000#32 → w &&& 0x00FFFF00#32 ≠ 0#32 → ¬ ∃ i, decode w = .ok i) ∧
  (∀ (b : Byte) (s : State),
    exec (.crcByte b) s =
      .next { s with crc := crcStep s.crc b, resp := s.resp ++ [.ok (crcStep s.crc b).toNat] }) ∧
  crcStep 0xFFFF#16 0x00#8 = 0x40BF#16 ∧ crcStep 0#16 0x00#8 = 0#16 ∧
  (∀ i : Byte, crcStep 0#16 i = tableAt i) ∧ checksum [0x01#8, 0x03#8] ≠ checksum [0x03#8, 0x01#8] ∧
  crcStep 0xFFFF#16 0x31#8 = 0x947E#16

/-- R82, R83, R84: the pseudo-commands compute Update and Checksum for every byte sequence, from every state, with one
answer per command and the result in the last; CRC.GET answers CRC and changes nothing. -/
def Obligations.PseudoCommandsComputeUpdate : Prop :=
  (∀ (d : List Byte) (c0 : Half) (s : State) (rest : List HostAction),
    ∃ rs : List Response, rs.length = d.length + 1 ∧ rs.getLast? = some (.ok (crcUpdate d c0).toNat) ∧
      Sys2Proof.core.run (d.length + 1) { s with host := pseudoUpdate d c0 ++ rest } =
        .next { s with crc := crcUpdate d c0, resp := s.resp ++ rs, host := rest }) ∧
  (∀ (d : List Byte) (s : State) (rest : List HostAction),
    ∃ rs : List Response, rs.length = d.length + 1 ∧ rs.getLast? = some (.ok (checksum d).toNat) ∧
      Sys2Proof.core.run (d.length + 1) { s with host := pseudoChecksum d ++ rest } =
        .next { s with crc := checksum d, resp := s.resp ++ rs, host := rest }) ∧
  (∀ (s : State) (rest : List HostAction),
    Sys2Proof.core.run 1 { s with host := pseudoCrcGet ++ rest } =
      .next { s with resp := s.resp ++ [.ok s.crc.toNat], host := rest })

/-! ### Opening, closing, registers -/

/-- R111: FR.OPEN's encoding, and its effect in every state, for an absent source, a source of odd length and a source
of even length. -/
def Obligations.OpenEffect : Prop :=
  (∀ n : Half, decode (0x10000000#32 ||| n.setWidth 32) = .ok (.frOpen false n) ∧
    decode (0x10010000#32 ||| n.setWidth 32) = .ok (.frOpen true n)) ∧
  (∀ (be : Bool) (n : Half) (s : State), s.src = none →
    exec (.frOpen be n) s = .next
      { s with rstate := .idle, hopen := false, cur := 0, wlen := 0, stream := [], err := 0x0080#16,
               errStored := 0#16, errComputed := 0#16, fcrc := 0xFFFF#16, declBE := be, npay := n,
               resp := s.resp ++ [.error 0x80#8 0#8] }) ∧
  (∀ (be : Bool) (n : Half) (s : State) (bytes : List Byte), s.src = some bytes → bytes.length % 2 = 1 →
    exec (.frOpen be n) s = .next
      { s with rstate := .idle, hopen := false, cur := 0, wlen := 0, stream := [], err := 0x0081#16,
               errStored := 0#16, errComputed := 0#16, fcrc := 0xFFFF#16, declBE := be, npay := n,
               resp := s.resp ++ [.error 0x81#8 0#8] }) ∧
  (∀ (be : Bool) (n : Half) (s : State) (bytes : List Byte), s.src = some bytes → bytes.length % 2 = 0 →
    exec (.frOpen be n) s = .next
      { s with rstate := .reading, hopen := true, cur := 0, wlen := bytes.length / 2, stream := bytes, err := 0#16,
               errStored := 0#16, errComputed := 0#16, fcrc := 0xFFFF#16, declBE := be, npay := n,
               resp := s.resp ++ [.ok (bytes.length / 2)] })

/-- R116: FR.CLOSE's encoding; it clears HOPEN and nothing else, in every state; in Reading, the next read then fails
with `Error(IO_ERROR, 2)`, enters Failed and moves nothing. -/
def Obligations.CloseEffect : Prop :=
  decode 0x14000000#32 = .ok .frClose ∧
  (∀ s : State, exec .frClose s = .next { s with hopen := false, resp := s.resp ++ [.ok 0] }) ∧
  (∀ (i : Instr) (s : State), isReadCommand i = true → s.rstate = .reading → s.hopen = false →
    exec i s = .next { s with err := 0x0280#16, rstate := .failed, resp := s.resp ++ [.error 0x80#8 2#8] })

/-- R140, R29: RDREG's encoding; it answers the whole value of the register and changes nothing else, for each of the
ten. -/
def Obligations.RdregAnswersTheRegister : Prop :=
  (∀ r : Byte, r.toNat < 10 → decode (0x20000000#32 ||| r.setWidth 32) = .ok (.rdreg r)) ∧
  ∀ s : State,
    exec (.rdreg 0#8) s = .next { s with resp := s.resp ++ [.ok s.crc.toNat] } ∧
    exec (.rdreg 1#8) s = .next { s with resp := s.resp ++ [.ok s.fcrc.toNat] } ∧
    exec (.rdreg 2#8) s = .next { s with resp := s.resp ++ [.ok
      (match s.rstate with | .idle => 0 | .reading => 1 | .terminated => 2 | .failed => 3)] } ∧
    exec (.rdreg 3#8) s = .next { s with resp := s.resp ++ [.ok
      (8 * s.hopen.toNat + 4 * (s.declBE ^^ s.params.hostBE).toNat + 2 * s.params.hostBE.toNat + s.declBE.toNat)] } ∧
    exec (.rdreg 4#8) s = .next { s with resp := s.resp ++ [.ok s.npay.toNat] } ∧
    exec (.rdreg 5#8) s = .next { s with resp := s.resp ++ [.ok s.cur] } ∧
    exec (.rdreg 6#8) s = .next { s with resp := s.resp ++ [.ok s.wlen] } ∧
    exec (.rdreg 7#8) s = .next { s with resp := s.resp ++ [.ok s.err.toNat] } ∧
    exec (.rdreg 8#8) s = .next { s with resp := s.resp ++ [.ok s.errStored.toNat] } ∧
    exec (.rdreg 9#8) s = .next { s with resp := s.resp ++ [.ok s.errComputed.toNat] }

/-- R141: the words of RDREG with a register number of 10 or more, or with a bit of 23:8 set, are illegal; the term
with such a number answers the same (log 12). -/
def Obligations.RdregOfNoRegisterIsIllegal : Prop :=
  (∀ (s : State) (w : CmdWord) (rest : List HostAction), s.host = .command w :: rest →
    w &&& 0xFF000000#32 = 0x20000000#32 → (w &&& 0x00FFFF00#32 ≠ 0#32 ∨ 10 ≤ (w &&& 0xFF#32).toNat) →
    step s = .next { s with host := rest, resp := s.resp ++ [.illegalCommand] }) ∧
  (∀ (r : Byte) (s : State), 10 ≤ r.toNat →
    exec (.rdreg r) s = .next { s with resp := s.resp ++ [.illegalCommand] })

/-! ### Words and payloads -/

/-- R55, R56: the word depends on the declared order alone, whatever the host's order is. -/
def Obligations.WordFollowsTheDeclaredOrder : Prop :=
  ∀ (s : State) (i : Nat) (b0 b1 : Byte), s.hasWordBytes i b0 b1 → s.word i = some (declaredWord s.declBE b0 b1)

/-- R58: the payload (the host image of the frame's words) is the frame's stream bytes when SWAP is 0 and the same
bytes with every pair exchanged when SWAP is 1. -/
def Obligations.PayloadIsTheStreamBytes : Prop :=
  ∀ (s : State) (ws : List Half), s.wordsFrom s.cur s.npay.toNat = some ws →
    payloadBytes s.params.hostBE ws = s.frameImage ∧ s.frameImage.length = 2 * s.npay.toNat

/-! ### The reading commands -/

/-- R117: outside Reading a reading command repeats the terminal answer and changes nothing else. -/
def Obligations.GateAnswersOutsideReading : Prop :=
  ∀ (i : Instr) (s : State), isReadCommand i = true →
    (s.rstate = .idle → exec i s = .next { s with resp := s.resp ++ [.error 0x80#8 2#8] }) ∧
    (s.rstate = .terminated → exec i s = .next { s with resp := s.resp ++ [.endOfStream] }) ∧
    (s.rstate = .failed → s.err &&& 0xFF#16 = 0x82#16 →
      exec i s = .next { s with resp := s.resp ++ [.integrityError s.errStored s.errComputed] }) ∧
    (s.rstate = .failed → s.err &&& 0xFF#16 ≠ 0x82#16 →
      exec i s = .next { s with resp := s.resp ++ [.error (s.err.setWidth 8) ((s.err >>> 8).setWidth 8)] })

/-- R160: what `Fail` records and answers, and that nothing else changes. -/
def Obligations.FailEntry : Prop :=
  ∀ (kind : ErrKind) (cause : Byte) (s : State),
    (fail kind cause s).2 =
      { s with err := (cause.setWidth 16 <<< 8) ||| kind.code.setWidth 16, rstate := .failed, hopen := false } ∧
    (fail kind cause s).1 =
      (if kind = .integrity then .integrityError s.errStored s.errComputed else .error kind.code cause) ∧
    (fail kind cause s).1.status = (fail kind cause s).2.errKind

/-- R112, R63: FR.READW with enough words left answers them, in stream order and by the declared order, leaves them in
BUF and moves CUR past them; nothing else changes but the draw that was used. -/
def Obligations.ReadwReadsTheWords : Prop :=
  ∀ (s : State) (count : Half), Memory.wf s = true → s.rstate = .reading → s.hopen = true → s.ioFail = false →
    count.toNat ≤ s.wlen - s.cur →
    ∃ ws : List Half,
      exec (.frReadw count) s = .next
        { s with buf := ws ++ s.buf.drop ws.length, cur := s.cur + count.toNat, ioDraws := s.ioDraws.tail,
                 resp := s.resp ++ [.words ws] } ∧
      ws.length = count.toNat ∧
      ∀ k, k < count.toNat →
        ∃ b0 b1, s.hasWordBytes (s.cur + k) b0 b1 ∧ ws[k]? = some (declaredWord s.declBE b0 b1)

/-- R112, R158: FR.READW's two failures in Reading with the handle open, in their order; a failing read consumes
nothing. -/
def Obligations.ReadwFailures : Prop :=
  ∀ (s : State) (count : Half), s.rstate = .reading → s.hopen = true →
    (s.ioFail = true → exec (.frReadw count) s = .next
      { s with err := 0x0180#16, rstate := .failed, hopen := false, ioDraws := s.ioDraws.tail,
               resp := s.resp ++ [.error 0x80#8 1#8] }) ∧
    (s.ioFail = false → s.wlen - s.cur < count.toNat → exec (.frReadw count) s = .next
      { s with err := 0x0181#16, rstate := .failed, hopen := false, ioDraws := s.ioDraws.tail,
               resp := s.resp ++ [.error 0x81#8 1#8] })

/-- R113, R119: FR.NEXT on a whole frame whose stored checksum equals the computed one. -/
def Obligations.NextDeliversAValidFrame : Prop :=
  ∀ (s : State) (a0 a1 c0 c1 : Byte), Memory.wf s = true → s.rstate = .reading → s.hopen = true →
    s.ioFail = false → s.npay.toNat + 1 ≤ s.wlen - s.cur →
    s.hasWordBytes s.cur a0 a1 → declaredWord s.declBE a0 a1 ≠ 0xA5A5#16 →
    s.hasWordBytes (s.cur + s.npay.toNat) c0 c1 → checksum s.frameImage = declaredWord s.declBE c0 c1 →
    ∃ ws : List Half, s.wordsFrom s.cur (s.npay.toNat + 1) = some ws ∧
      exec .frNext s = .next
        { s with buf := ws ++ s.buf.drop ws.length, cur := s.cur + s.npay.toNat + 1,
                 fcrc := checksum s.frameImage, fout := s.fout ++ [s.frameImage], ioDraws := s.ioDraws.tail,
                 resp := s.resp ++ [.frame s.frameImage (declaredWord s.declBE c0 c1)] }

/-- R113, R153, R160: FR.NEXT on a whole frame whose stored checksum differs from the computed one. -/
def Obligations.NextReportsAMismatch : Prop :=
  ∀ (s : State) (a0 a1 c0 c1 : Byte), Memory.wf s = true → s.rstate = .reading → s.hopen = true →
    s.ioFail = false → s.npay.toNat + 1 ≤ s.wlen - s.cur →
    s.hasWordBytes s.cur a0 a1 → declaredWord s.declBE a0 a1 ≠ 0xA5A5#16 →
    s.hasWordBytes (s.cur + s.npay.toNat) c0 c1 → checksum s.frameImage ≠ declaredWord s.declBE c0 c1 →
    ∃ ws : List Half, s.wordsFrom s.cur (s.npay.toNat + 1) = some ws ∧
      exec .frNext s = .next
        { s with buf := ws ++ s.buf.drop ws.length, cur := s.cur + s.npay.toNat + 1,
                 fcrc := checksum s.frameImage, err := 0x0082#16, rstate := .failed, hopen := false,
                 errStored := declaredWord s.declBE c0 c1, errComputed := checksum s.frameImage,
                 ioDraws := s.ioDraws.tail,
                 resp := s.resp ++ [.integrityError (declaredWord s.declBE c0 c1) (checksum s.frameImage)] }

/-- R118, R113, R158: the bytes A5 A5 at the cursor end the pass and consume one word, whatever the declared order,
NPAY and the words after them are. -/
def Obligations.SentinelEndsThePass : Prop :=
  ∀ (i : Instr) (s : State), i = .frNext ∨ i = .frAll → s.rstate = .reading → s.hopen = true → s.ioFail = false →
    s.cur < s.wlen → s.hasWordBytes s.cur 0xA5#8 0xA5#8 →
    exec i s = .next
      { s with cur := s.cur + 1, rstate := .terminated, hopen := false, ioDraws := s.ioDraws.tail,
               resp := s.resp ++ [.endOfStream] }

/-- R113, R158, R161: the other ways a next-frame attempt ends in Reading with the handle open, for FR.NEXT and for
the first iteration of FR.ALL: an I/O failure; no word left, under each EOF_POLICY; an incomplete frame. -/
def Obligations.NextFrameEndings : Prop :=
  ∀ (i : Instr) (s : State), i = .frNext ∨ i = .frAll → s.rstate = .reading → s.hopen = true →
    (s.ioFail = true → exec i s = .next
      { s with err := 0x0180#16, rstate := .failed, hopen := false, ioDraws := s.ioDraws.tail,
               resp := s.resp ++ [.error 0x80#8 1#8] }) ∧
    (s.ioFail = false → s.wlen ≤ s.cur → s.params.eofPolicy = .formatError → exec i s = .next
      { s with err := 0x0181#16, rstate := .failed, hopen := false, ioDraws := s.ioDraws.tail,
               resp := s.resp ++ [.error 0x81#8 1#8] }) ∧
    (s.ioFail = false → s.wlen ≤ s.cur → s.params.eofPolicy = .endOfStream → exec i s = .next
      { s with rstate := .terminated, hopen := false, ioDraws := s.ioDraws.tail,
               resp := s.resp ++ [.endOfStream] }) ∧
    (∀ b0 b1, s.ioFail = false → s.cur < s.wlen → s.hasWordBytes s.cur b0 b1 →
      declaredWord s.declBE b0 b1 ≠ 0xA5A5#16 → s.wlen - s.cur < s.npay.toNat + 1 → exec i s = .next
      { s with err := 0x0181#16, rstate := .failed, hopen := false, ioDraws := s.ioDraws.tail,
               resp := s.resp ++ [.error 0x81#8 1#8] })

/-- R161: an error of FR.NEXT emits nothing, and CUR is unchanged by an I/O or format error and past the whole frame
after an integrity error. -/
def Obligations.NextErrorsArePrecise : Prop :=
  ∀ s t : State, s.rstate = .reading → exec .frNext s = .next t → t.rstate = .failed →
    t.fout = s.fout ∧ t.hopen = false ∧
    ((t.errKind = 0x82#8 ∧ t.cur = s.cur + s.npay.toNat + 1 ∧ t.fcrc = t.errComputed ∧
        t.errStored ≠ t.errComputed) ∨
      ((t.errKind = 0x80#8 ∨ t.errKind = 0x81#8) ∧ t.cur = s.cur ∧ t.fcrc = s.fcrc ∧ t.errStored = s.errStored ∧
        t.errComputed = s.errComputed))

/-- R161, R115: an error of FR.ALL comes after whole frames that were valid and emitted, each with its own payload, and
nothing of or after the failing frame is emitted; CUR counts the frames read, with the rejected one after an integrity
error, whose two values are that frame's. -/
def Obligations.AllErrorsArePrecise : Prop :=
  ∀ s t : State, s.rstate = .reading → exec .frAll s = .next t → t.rstate = .failed →
    ∃ ps : List (List Byte), t.fout = s.fout ++ ps ∧ (∀ j p, ps[j]? = some p → s.ValidFrame j p) ∧
      ((t.errKind = 0x82#8 ∧ t.cur = (s.atFrame (ps.length + 1)).cur ∧
          t.errComputed = checksum (s.atFrame ps.length).frameImage ∧
          (∃ c0 c1, s.hasWordBytes ((s.atFrame ps.length).cur + s.npay.toNat) c0 c1 ∧
            t.errStored = declaredWord s.declBE c0 c1) ∧
          t.errStored ≠ t.errComputed) ∨
        ((t.errKind = 0x80#8 ∨ t.errKind = 0x81#8) ∧ t.cur = (s.atFrame ps.length).cur))

/-- R115, R121: FR.ALL is FR.NEXT issued until the first answer that is no Frame, except that the Frames are not
answered; it needs at most `floor((WLEN - CUR) / (NPAY + 1)) + 1` of them, and leaves Reading. -/
def Obligations.AllIsRepeatedNext : Prop :=
  ∀ s : State, Memory.wf s = true → s.rstate = .reading →
    ∃ (k : Nat) (u : State) (frames : List Response) (last : Response),
      k ≤ (s.wlen - s.cur) / (s.npay.toNat + 1) ∧ frames.length = k ∧
      (∀ r ∈ frames, r.isFrame = true) ∧ last.isFrame = false ∧
      repeatNext (k + 1) s = .next u ∧ u.resp = s.resp ++ frames ++ [last] ∧ u.rstate ≠ .reading ∧
      exec .frAll s = .next { u with resp := s.resp ++ [last] }

/-- R123(a), R120, R124(c): a stream of valid frames and the sentinel, written in the declared order and followed by
anything, read without an I/O failure, yields exactly its payloads in order, then EndOfStream. FR.ALL consults
`frames.length + 1` draws: where `ioDraws` holds fewer, the statement rests on the model's choice that a draw past the
end of the list is false (log 4, DESIGN CHOICE, unsafe); where it holds that many, it does not. -/
def Obligations.RoundTrip : Prop :=
  ∀ (s : State) (be : Bool) (n : Half) (frames : List (List Half)) (tail : List Byte),
    (∀ f ∈ frames, f.length = n.toNat ∧ f.head? ≠ some 0xA5A5#16) → tail.length % 2 = 0 →
    (∀ d ∈ s.ioDraws, d = false) →
    s.src = some (wordsBytes be (streamWords s.params.hostBE frames) ++ tail) →
    ∃ t u : State, exec (.frOpen be n) s = .next t ∧ exec .frAll t = .next u ∧
      u.fout = s.fout ++ frames.map (payloadBytes s.params.hostBE) ∧ u.rstate = .terminated ∧ u.err = 0#16 ∧
      u.cur = frames.length * (n.toNat + 1) + 1 ∧
      u.resp = s.resp ++ [.ok (frames.length * (n.toNat + 1) + 1 + tail.length / 2), .endOfStream]

/-- R123(d), R56: the same words in the other byte order, opened with the other declared order, are read identically:
the reading commands do the same on both, up to the stream and the declared order themselves. -/
def Obligations.ByteOrderIsInvisible : Prop :=
  ∀ (i : Instr) (s : State), isReadCommand i = true →
    exec i { s with stream := exchangePairs s.stream, declBE := !s.declBE } =
      mapNext (fun t => { t with stream := exchangePairs t.stream, declBE := !t.declBE }) (exec i s)

/-- R123(b): where FR.NEXT would answer a Frame, one changed byte in that frame makes it fail with INTEGRITY_ERROR and
emit nothing, but for a change that makes the first word the sentinel, which ends the pass. -/
def Obligations.OneChangedByteIsDetected : Prop :=
  ∀ (s t : State) (p : List Byte) (c : Half) (a : Nat) (x : Byte),
    exec .frNext s = .next t → t.resp = s.resp ++ [.frame p c] →
    2 * s.cur ≤ a → a < 2 * (s.cur + s.npay.toNat + 1) → s.streamByte a ≠ some x →
    (({ s with stream := s.stream.set a x } : State).word s.cur ≠ some 0xA5A5#16 →
      ∃ (u : State) (stored computed : Half), exec .frNext { s with stream := s.stream.set a x } = .next u ∧
        u.resp = s.resp ++ [.integrityError stored computed] ∧ stored ≠ computed ∧ u.rstate = .failed ∧
        u.err = 0x0082#16 ∧ u.fout = s.fout) ∧
    (({ s with stream := s.stream.set a x } : State).word s.cur = some 0xA5A5#16 →
      ∃ u : State, exec .frNext { s with stream := s.stream.set a x } = .next u ∧
        u.resp = s.resp ++ [.endOfStream] ∧ u.rstate = .terminated ∧ u.fout = s.fout)

/-! ### Rules about every command -/

/-- R79, R38: every command that completes appends exactly one response. -/
def Obligations.EveryCommandAnswersOnce : Prop :=
  ∀ (i : Instr) (s t : State), exec i s = .next t → ∃ r : Response, t.resp = s.resp ++ [r]

/-- R188: no Frame Reader command reads or writes CRC; no CRC command reads or writes FCRC or anything else the Frame
Reader has, so that the constant TABLE is all the two families share; and a command of each, issued in either order,
leave the same state and the same two answers. -/
def Obligations.CrcAndFcrcAreIndependent : Prop :=
  (∀ (i : Instr) (s : State) (c : Half), isReaderCommand i = true →
    exec i { s with crc := c } = mapNext (fun t => { t with crc := c }) (exec i s)) ∧
  (∀ (i : Instr) (s u : State), isCrcCommand i = true →
    exec i (s.withReaderOf u) = mapNext (fun t => t.withReaderOf u) (exec i s)) ∧
  (∀ (i j : Instr) (s t u : State), isCrcCommand i = true → isReaderCommand j = true →
    exec i s = .next t → exec j s = .next u →
    ∃ (a b : Response) (v w : State), exec j t = .next v ∧ exec i u = .next w ∧
      t.resp = s.resp ++ [a] ∧ v.resp = s.resp ++ [a, b] ∧ u.resp = s.resp ++ [b] ∧ w.resp = s.resp ++ [b, a] ∧
      w = { v with resp := w.resp })

/-- R39(f), R52, R59: what the reading commands leave unchanged: CRC, the configuration, WLEN, SRC, every byte of
STREAM, every word of BUF beyond what one read writes; and, but for an integrity error, ERRSTORED and ERRCOMPUTED; and,
for FR.READW, FCRC and FOUT as well. -/
def Obligations.ReadingCommandsFrame : Prop :=
  ∀ (i : Instr) (s t : State), isReadCommand i = true → exec i s = .next t →
    t.crc = s.crc ∧ t.npay = s.npay ∧ t.declBE = s.declBE ∧ t.wlen = s.wlen ∧ t.src = s.src ∧
    t.params = s.params ∧ t.host = s.host ∧ (∀ a, t.streamByte a = s.streamByte a) ∧
    (∀ k, bufReach i s ≤ k → t.bufWord k = s.bufWord k) ∧
    (t.errKind ≠ 0x82#8 → t.errStored = s.errStored ∧ t.errComputed = s.errComputed) ∧
    (∀ count, i = .frReadw count →
      t.fcrc = s.fcrc ∧ t.fout = s.fout ∧ t.errStored = s.errStored ∧ t.errComputed = s.errComputed)

/-- R36, R113: FOUT gains only payloads of valid frames, in stream order from the cursor on, only by FR.NEXT (at most
one, the payload of its Frame answer) and FR.ALL, only in Reading. -/
def Obligations.OnlyValidatedFramesAreEmitted : Prop :=
  ∀ (i : Instr) (s t : State), exec i s = .next t →
    ∃ ps : List (List Byte), t.fout = s.fout ++ ps ∧ (∀ j p, ps[j]? = some p → s.ValidFrame j p) ∧
      (ps ≠ [] → (i = .frNext ∨ i = .frAll) ∧ s.rstate = .reading) ∧
      (i = .frNext → (ps = [] ∨ ∃ p c, ps = [p] ∧ checksum p = c ∧ t.resp = s.resp ++ [.frame p c]))

/-- R110, R163: the transitions of the read-pass state machine and the answers that go with them, for every command
(a response status with bit 7 set is an error, R79). -/
def Obligations.ReadPassTransitions : Prop :=
  ∀ (i : Instr) (s t : State), exec i s = .next t →
    (isOpenCommand i = true → t.rstate = .reading ∨ t.rstate = .idle) ∧
    (isOpenCommand i = false → s.rstate ≠ .reading → t.rstate = s.rstate) ∧
    (isReadCommand i = false → isOpenCommand i = false → t.rstate = s.rstate) ∧
    (s.rstate = .reading → ∀ count, i = .frReadw count →
      (t.rstate = .reading ∧ ∃ ws, t.resp = s.resp ++ [.words ws]) ∨
      (t.rstate = .failed ∧ ∃ r : Response, t.resp = s.resp ++ [r] ∧ r.status.getLsbD 7 = true)) ∧
    (s.rstate = .reading → i = .frNext →
      (t.rstate = .reading ∧ ∃ p c, t.resp = s.resp ++ [.frame p c]) ∨
      (t.rstate = .terminated ∧ t.resp = s.resp ++ [.endOfStream]) ∨
      (t.rstate = .failed ∧ ∃ r : Response, t.resp = s.resp ++ [r] ∧ r.status.getLsbD 7 = true)) ∧
    (s.rstate = .reading → i = .frAll →
      (t.rstate = .terminated ∧ t.resp = s.resp ++ [.endOfStream]) ∨
      (t.rstate = .failed ∧ ∃ r : Response, t.resp = s.resp ++ [r] ∧ r.status.getLsbD 7 = true))

/-- R110, R117, R163: Terminated and Failed are absorbing: short of FR.OPEN no command moves CUR, emits a frame, uses a
draw, or changes the error registers, FCRC or BUF. -/
def Obligations.TerminatedAndFailedAbsorb : Prop :=
  ∀ (i : Instr) (s t : State), exec i s = .next t → isOpenCommand i = false →
    s.rstate = .terminated ∨ s.rstate = .failed →
    t.rstate = s.rstate ∧ t.cur = s.cur ∧ t.fout = s.fout ∧ t.ioDraws = s.ioDraws ∧ t.err = s.err ∧
    t.errStored = s.errStored ∧ t.errComputed = s.errComputed ∧ t.fcrc = s.fcrc ∧ t.buf = s.buf

/-- R26: only FR.OPEN and the reading commands move CUR; within a pass it never decreases and never passes WLEN. -/
def Obligations.CursorNeverGoesBack : Prop :=
  ∀ (i : Instr) (s t : State), exec i s = .next t → isOpenCommand i = false →
    s.cur ≤ t.cur ∧ (s.cur ≤ s.wlen → t.cur ≤ t.wlen) ∧ (isReadCommand i = false → t.cur = s.cur)

/-- R36, R39(g): short of RESET the two traces only grow, and no step changes the parameters. -/
def Obligations.TracesOnlyGrow : Prop :=
  ∀ s t : State, step s = .next t →
    t.params = s.params ∧
    ((∀ rest, s.host ≠ .reset :: rest) → s.resp <+: t.resp ∧ s.fout <+: t.fout)

/-! ### Invariants and safety -/

/-- R39: the invariants hold after reset, for every value of the parameters. -/
def Obligations.ResetMeetsTheInvariants : Prop :=
  ∀ p : Config.Params, Invariants (State.resetWith p)

/-- R39: every step keeps the invariants. -/
def Obligations.StepKeepsTheInvariants : Prop :=
  ∀ s t : State, Invariants s → step s = .next t → Invariants t

/-- R79, R39: from every state that meets the invariants, every run of any length goes on: no step faults and none is
refused, whatever the host does and the environment draws; and the invariants hold at its end. -/
def Obligations.NoRunStops : Prop :=
  ∀ (k : Nat) (s : State), Invariants s → ∃ t : State, Sys2Proof.core.run k s = .next t ∧ Invariants t
end

