-- ==== Sys2Proof/Laws/Crc.lean ====
section
/-! SUPPORT. The laws of the bit-by-bit reference (40_crc_engine.md R91): it is linear over XOR and loses no
information. -/

namespace Sys2Proof.Laws

open Sys2Proof.Machine

/-- One shift is linear over XOR (R91). -/
theorem shiftOnce_xor (a b : Half) : shiftOnce (a ^^^ b) = shiftOnce a ^^^ shiftOnce b := by
  have cancel (x y p : Half) : x ^^^ p ^^^ (y ^^^ p) = x ^^^ y := by
    ext i; simp only [BitVec.getElem_xor]; cases x[i] <;> cases y[i] <;> cases p[i] <;> rfl
  have swap (x y p : Half) : x ^^^ y ^^^ p = x ^^^ p ^^^ y := by
    ext i; simp only [BitVec.getElem_xor]; cases x[i] <;> cases y[i] <;> cases p[i] <;> rfl
  unfold shiftOnce
  rw [BitVec.getLsbD_xor, BitVec.ushiftRight_xor_distrib]
  cases a.getLsbD 0 <;> cases b.getLsbD 0 <;> simp [cancel, swap, BitVec.xor_assoc]
  exact BitVec.xor_comm _ _

/-- So are `k` shifts. -/
theorem shiftTimes_xor (k : Nat) (a b : Half) : shiftTimes k (a ^^^ b) = shiftTimes k a ^^^ shiftTimes k b := by
  induction k generalizing a b with
  | zero => rfl
  | succ k ih => simp only [shiftTimes, shiftOnce_xor, ih]

/-- One shift sends only 0 to 0: the top bit of the reflected polynomial records the bit shifted out (R92). -/
theorem shiftOnce_eq_zero {r : Half} (h : shiftOnce r = 0#16) : r = 0#16 := by
  have hb (i : Nat) : (shiftOnce r).getLsbD i = false := by rw [h]; simp
  have h0 : r.getLsbD 0 = false := by
    have := hb 15
    unfold shiftOnce at this
    cases hr : r.getLsbD 0 with
    | false => rfl
    | true => simp [hr, polyReflected] at this
  apply BitVec.eq_of_getLsbD_eq
  intro i _
  cases i with
  | zero => simpa using h0
  | succ i =>
    have := hb i
    simp only [shiftOnce, h0, Bool.false_eq_true, if_false, BitVec.getLsbD_ushiftRight] at this
    simpa [Nat.add_comm] using this

/-- So do `k` shifts. -/
theorem shiftTimes_eq_zero {k : Nat} {r : Half} (h : shiftTimes k r = 0#16) : r = 0#16 := by
  induction k generalizing r with
  | zero => exact h
  | succ k ih => exact shiftOnce_eq_zero (ih h)

/-- `k` shifts lose no information. -/
theorem shiftTimes_injective (k : Nat) {a b : Half} (h : shiftTimes k a = shiftTimes k b) : a = b := by
  have : shiftTimes k (a ^^^ b) = 0#16 := by rw [shiftTimes_xor, h, BitVec.xor_self]
  exact BitVec.xor_eq_zero_iff.1 (shiftTimes_eq_zero this)

/-- The reference step has different results from different remainders and the same byte. -/
theorem stepBits_injective_crc {c d : Half} {b : Byte} (h : stepBits c b = stepBits d b) : c = d := by
  have := shiftTimes_injective 8 h
  simpa using this

/-- The reference step has different results for different bytes and the same remainder. -/
theorem stepBits_injective_byte {c : Half} {a b : Byte} (h : stepBits c a = stepBits c b) : a = b := by
  have h1 := shiftTimes_injective 8 h
  have h2 : a.setWidth 16 = b.setWidth 16 := by simpa using h1
  have h3 := congrArg (BitVec.setWidth 8) h2
  simpa [BitVec.setWidth_setWidth_of_le] using h3

end Sys2Proof.Laws
end

