-- ==== Sys2Proof/Laws/State.lean ====
section
/-! SUPPORT. What each update of the state does to each field: one lemma per field per update, so that no later proof
unfolds an update. -/

namespace Sys2Proof.Laws

open Sys2Proof.Machine

variable (s : State)

/-! ### respond -/

@[simp] theorem respond_crc (r : Response) : (s.respond r).crc = s.crc := rfl
@[simp] theorem respond_fcrc (r : Response) : (s.respond r).fcrc = s.fcrc := rfl
@[simp] theorem respond_buf (r : Response) : (s.respond r).buf = s.buf := rfl
@[simp] theorem respond_rstate (r : Response) : (s.respond r).rstate = s.rstate := rfl
@[simp] theorem respond_declBE (r : Response) : (s.respond r).declBE = s.declBE := rfl
@[simp] theorem respond_hopen (r : Response) : (s.respond r).hopen = s.hopen := rfl
@[simp] theorem respond_npay (r : Response) : (s.respond r).npay = s.npay := rfl
@[simp] theorem respond_cur (r : Response) : (s.respond r).cur = s.cur := rfl
@[simp] theorem respond_wlen (r : Response) : (s.respond r).wlen = s.wlen := rfl
@[simp] theorem respond_err (r : Response) : (s.respond r).err = s.err := rfl
@[simp] theorem respond_errStored (r : Response) : (s.respond r).errStored = s.errStored := rfl
@[simp] theorem respond_errComputed (r : Response) : (s.respond r).errComputed = s.errComputed := rfl
@[simp] theorem respond_src (r : Response) : (s.respond r).src = s.src := rfl
@[simp] theorem respond_stream (r : Response) : (s.respond r).stream = s.stream := rfl
@[simp] theorem respond_fout (r : Response) : (s.respond r).fout = s.fout := rfl
@[simp] theorem respond_resp (r : Response) : (s.respond r).resp = s.resp ++ [r] := rfl
@[simp] theorem respond_params (r : Response) : (s.respond r).params = s.params := rfl
@[simp] theorem respond_ioDraws (r : Response) : (s.respond r).ioDraws = s.ioDraws := rfl
@[simp] theorem respond_host (r : Response) : (s.respond r).host = s.host := rfl

/-! ### emit -/

@[simp] theorem emit_crc (p : List Byte) : (s.emit p).crc = s.crc := rfl
@[simp] theorem emit_fcrc (p : List Byte) : (s.emit p).fcrc = s.fcrc := rfl
@[simp] theorem emit_buf (p : List Byte) : (s.emit p).buf = s.buf := rfl
@[simp] theorem emit_rstate (p : List Byte) : (s.emit p).rstate = s.rstate := rfl
@[simp] theorem emit_declBE (p : List Byte) : (s.emit p).declBE = s.declBE := rfl
@[simp] theorem emit_hopen (p : List Byte) : (s.emit p).hopen = s.hopen := rfl
@[simp] theorem emit_npay (p : List Byte) : (s.emit p).npay = s.npay := rfl
@[simp] theorem emit_cur (p : List Byte) : (s.emit p).cur = s.cur := rfl
@[simp] theorem emit_wlen (p : List Byte) : (s.emit p).wlen = s.wlen := rfl
@[simp] theorem emit_err (p : List Byte) : (s.emit p).err = s.err := rfl
@[simp] theorem emit_errStored (p : List Byte) : (s.emit p).errStored = s.errStored := rfl
@[simp] theorem emit_errComputed (p : List Byte) : (s.emit p).errComputed = s.errComputed := rfl
@[simp] theorem emit_src (p : List Byte) : (s.emit p).src = s.src := rfl
@[simp] theorem emit_stream (p : List Byte) : (s.emit p).stream = s.stream := rfl
@[simp] theorem emit_fout (p : List Byte) : (s.emit p).fout = s.fout ++ [p] := rfl
@[simp] theorem emit_resp (p : List Byte) : (s.emit p).resp = s.resp := rfl
@[simp] theorem emit_params (p : List Byte) : (s.emit p).params = s.params := rfl
@[simp] theorem emit_ioDraws (p : List Byte) : (s.emit p).ioDraws = s.ioDraws := rfl
@[simp] theorem emit_host (p : List Byte) : (s.emit p).host = s.host := rfl

/-! ### setCur -/

@[simp] theorem setCur_crc (p : Nat) : (s.setCur p).crc = s.crc := rfl
@[simp] theorem setCur_fcrc (p : Nat) : (s.setCur p).fcrc = s.fcrc := rfl
@[simp] theorem setCur_buf (p : Nat) : (s.setCur p).buf = s.buf := rfl
@[simp] theorem setCur_rstate (p : Nat) : (s.setCur p).rstate = s.rstate := rfl
@[simp] theorem setCur_declBE (p : Nat) : (s.setCur p).declBE = s.declBE := rfl
@[simp] theorem setCur_hopen (p : Nat) : (s.setCur p).hopen = s.hopen := rfl
@[simp] theorem setCur_npay (p : Nat) : (s.setCur p).npay = s.npay := rfl
@[simp] theorem setCur_cur (p : Nat) : (s.setCur p).cur = p := rfl
@[simp] theorem setCur_wlen (p : Nat) : (s.setCur p).wlen = s.wlen := rfl
@[simp] theorem setCur_err (p : Nat) : (s.setCur p).err = s.err := rfl
@[simp] theorem setCur_errStored (p : Nat) : (s.setCur p).errStored = s.errStored := rfl
@[simp] theorem setCur_errComputed (p : Nat) : (s.setCur p).errComputed = s.errComputed := rfl
@[simp] theorem setCur_src (p : Nat) : (s.setCur p).src = s.src := rfl
@[simp] theorem setCur_stream (p : Nat) : (s.setCur p).stream = s.stream := rfl
@[simp] theorem setCur_fout (p : Nat) : (s.setCur p).fout = s.fout := rfl
@[simp] theorem setCur_resp (p : Nat) : (s.setCur p).resp = s.resp := rfl
@[simp] theorem setCur_params (p : Nat) : (s.setCur p).params = s.params := rfl
@[simp] theorem setCur_ioDraws (p : Nat) : (s.setCur p).ioDraws = s.ioDraws := rfl
@[simp] theorem setCur_host (p : Nat) : (s.setCur p).host = s.host := rfl

/-! ### writeBuf -/

@[simp] theorem writeBuf_crc (ws : List Half) : (s.writeBuf ws).crc = s.crc := rfl
@[simp] theorem writeBuf_fcrc (ws : List Half) : (s.writeBuf ws).fcrc = s.fcrc := rfl
@[simp] theorem writeBuf_buf (ws : List Half) : (s.writeBuf ws).buf = ws ++ s.buf.drop ws.length := rfl
@[simp] theorem writeBuf_rstate (ws : List Half) : (s.writeBuf ws).rstate = s.rstate := rfl
@[simp] theorem writeBuf_declBE (ws : List Half) : (s.writeBuf ws).declBE = s.declBE := rfl
@[simp] theorem writeBuf_hopen (ws : List Half) : (s.writeBuf ws).hopen = s.hopen := rfl
@[simp] theorem writeBuf_npay (ws : List Half) : (s.writeBuf ws).npay = s.npay := rfl
@[simp] theorem writeBuf_cur (ws : List Half) : (s.writeBuf ws).cur = s.cur := rfl
@[simp] theorem writeBuf_wlen (ws : List Half) : (s.writeBuf ws).wlen = s.wlen := rfl
@[simp] theorem writeBuf_err (ws : List Half) : (s.writeBuf ws).err = s.err := rfl
@[simp] theorem writeBuf_errStored (ws : List Half) : (s.writeBuf ws).errStored = s.errStored := rfl
@[simp] theorem writeBuf_errComputed (ws : List Half) : (s.writeBuf ws).errComputed = s.errComputed := rfl
@[simp] theorem writeBuf_src (ws : List Half) : (s.writeBuf ws).src = s.src := rfl
@[simp] theorem writeBuf_stream (ws : List Half) : (s.writeBuf ws).stream = s.stream := rfl
@[simp] theorem writeBuf_fout (ws : List Half) : (s.writeBuf ws).fout = s.fout := rfl
@[simp] theorem writeBuf_resp (ws : List Half) : (s.writeBuf ws).resp = s.resp := rfl
@[simp] theorem writeBuf_params (ws : List Half) : (s.writeBuf ws).params = s.params := rfl
@[simp] theorem writeBuf_ioDraws (ws : List Half) : (s.writeBuf ws).ioDraws = s.ioDraws := rfl
@[simp] theorem writeBuf_host (ws : List Half) : (s.writeBuf ws).host = s.host := rfl

/-! ### useDraw -/

@[simp] theorem useDraw_crc : (s.useDraw).crc = s.crc := rfl
@[simp] theorem useDraw_fcrc : (s.useDraw).fcrc = s.fcrc := rfl
@[simp] theorem useDraw_buf : (s.useDraw).buf = s.buf := rfl
@[simp] theorem useDraw_rstate : (s.useDraw).rstate = s.rstate := rfl
@[simp] theorem useDraw_declBE : (s.useDraw).declBE = s.declBE := rfl
@[simp] theorem useDraw_hopen : (s.useDraw).hopen = s.hopen := rfl
@[simp] theorem useDraw_npay : (s.useDraw).npay = s.npay := rfl
@[simp] theorem useDraw_cur : (s.useDraw).cur = s.cur := rfl
@[simp] theorem useDraw_wlen : (s.useDraw).wlen = s.wlen := rfl
@[simp] theorem useDraw_err : (s.useDraw).err = s.err := rfl
@[simp] theorem useDraw_errStored : (s.useDraw).errStored = s.errStored := rfl
@[simp] theorem useDraw_errComputed : (s.useDraw).errComputed = s.errComputed := rfl
@[simp] theorem useDraw_src : (s.useDraw).src = s.src := rfl
@[simp] theorem useDraw_stream : (s.useDraw).stream = s.stream := rfl
@[simp] theorem useDraw_fout : (s.useDraw).fout = s.fout := rfl
@[simp] theorem useDraw_resp : (s.useDraw).resp = s.resp := rfl
@[simp] theorem useDraw_params : (s.useDraw).params = s.params := rfl
@[simp] theorem useDraw_ioDraws : (s.useDraw).ioDraws = s.ioDraws.tail := rfl
@[simp] theorem useDraw_host : (s.useDraw).host = s.host := rfl

/-! ### terminate -/

@[simp] theorem terminate_crc : (s.terminate).crc = s.crc := rfl
@[simp] theorem terminate_fcrc : (s.terminate).fcrc = s.fcrc := rfl
@[simp] theorem terminate_buf : (s.terminate).buf = s.buf := rfl
@[simp] theorem terminate_rstate : (s.terminate).rstate = .terminated := rfl
@[simp] theorem terminate_declBE : (s.terminate).declBE = s.declBE := rfl
@[simp] theorem terminate_hopen : (s.terminate).hopen = false := rfl
@[simp] theorem terminate_npay : (s.terminate).npay = s.npay := rfl
@[simp] theorem terminate_cur : (s.terminate).cur = s.cur := rfl
@[simp] theorem terminate_wlen : (s.terminate).wlen = s.wlen := rfl
@[simp] theorem terminate_err : (s.terminate).err = s.err := rfl
@[simp] theorem terminate_errStored : (s.terminate).errStored = s.errStored := rfl
@[simp] theorem terminate_errComputed : (s.terminate).errComputed = s.errComputed := rfl
@[simp] theorem terminate_src : (s.terminate).src = s.src := rfl
@[simp] theorem terminate_stream : (s.terminate).stream = s.stream := rfl
@[simp] theorem terminate_fout : (s.terminate).fout = s.fout := rfl
@[simp] theorem terminate_resp : (s.terminate).resp = s.resp := rfl
@[simp] theorem terminate_params : (s.terminate).params = s.params := rfl
@[simp] theorem terminate_ioDraws : (s.terminate).ioDraws = s.ioDraws := rfl
@[simp] theorem terminate_host : (s.terminate).host = s.host := rfl

/-! ### setCrc -/

@[simp] theorem setCrc_crc (v : Half) : (s.setCrc v).crc = v := rfl
@[simp] theorem setCrc_fcrc (v : Half) : (s.setCrc v).fcrc = s.fcrc := rfl
@[simp] theorem setCrc_buf (v : Half) : (s.setCrc v).buf = s.buf := rfl
@[simp] theorem setCrc_rstate (v : Half) : (s.setCrc v).rstate = s.rstate := rfl
@[simp] theorem setCrc_declBE (v : Half) : (s.setCrc v).declBE = s.declBE := rfl
@[simp] theorem setCrc_hopen (v : Half) : (s.setCrc v).hopen = s.hopen := rfl
@[simp] theorem setCrc_npay (v : Half) : (s.setCrc v).npay = s.npay := rfl
@[simp] theorem setCrc_cur (v : Half) : (s.setCrc v).cur = s.cur := rfl
@[simp] theorem setCrc_wlen (v : Half) : (s.setCrc v).wlen = s.wlen := rfl
@[simp] theorem setCrc_err (v : Half) : (s.setCrc v).err = s.err := rfl
@[simp] theorem setCrc_errStored (v : Half) : (s.setCrc v).errStored = s.errStored := rfl
@[simp] theorem setCrc_errComputed (v : Half) : (s.setCrc v).errComputed = s.errComputed := rfl
@[simp] theorem setCrc_src (v : Half) : (s.setCrc v).src = s.src := rfl
@[simp] theorem setCrc_stream (v : Half) : (s.setCrc v).stream = s.stream := rfl
@[simp] theorem setCrc_fout (v : Half) : (s.setCrc v).fout = s.fout := rfl
@[simp] theorem setCrc_resp (v : Half) : (s.setCrc v).resp = s.resp := rfl
@[simp] theorem setCrc_params (v : Half) : (s.setCrc v).params = s.params := rfl
@[simp] theorem setCrc_ioDraws (v : Half) : (s.setCrc v).ioDraws = s.ioDraws := rfl
@[simp] theorem setCrc_host (v : Half) : (s.setCrc v).host = s.host := rfl

/-! ### setFcrc -/

@[simp] theorem setFcrc_crc (v : Half) : (s.setFcrc v).crc = s.crc := rfl
@[simp] theorem setFcrc_fcrc (v : Half) : (s.setFcrc v).fcrc = v := rfl
@[simp] theorem setFcrc_buf (v : Half) : (s.setFcrc v).buf = s.buf := rfl
@[simp] theorem setFcrc_rstate (v : Half) : (s.setFcrc v).rstate = s.rstate := rfl
@[simp] theorem setFcrc_declBE (v : Half) : (s.setFcrc v).declBE = s.declBE := rfl
@[simp] theorem setFcrc_hopen (v : Half) : (s.setFcrc v).hopen = s.hopen := rfl
@[simp] theorem setFcrc_npay (v : Half) : (s.setFcrc v).npay = s.npay := rfl
@[simp] theorem setFcrc_cur (v : Half) : (s.setFcrc v).cur = s.cur := rfl
@[simp] theorem setFcrc_wlen (v : Half) : (s.setFcrc v).wlen = s.wlen := rfl
@[simp] theorem setFcrc_err (v : Half) : (s.setFcrc v).err = s.err := rfl
@[simp] theorem setFcrc_errStored (v : Half) : (s.setFcrc v).errStored = s.errStored := rfl
@[simp] theorem setFcrc_errComputed (v : Half) : (s.setFcrc v).errComputed = s.errComputed := rfl
@[simp] theorem setFcrc_src (v : Half) : (s.setFcrc v).src = s.src := rfl
@[simp] theorem setFcrc_stream (v : Half) : (s.setFcrc v).stream = s.stream := rfl
@[simp] theorem setFcrc_fout (v : Half) : (s.setFcrc v).fout = s.fout := rfl
@[simp] theorem setFcrc_resp (v : Half) : (s.setFcrc v).resp = s.resp := rfl
@[simp] theorem setFcrc_params (v : Half) : (s.setFcrc v).params = s.params := rfl
@[simp] theorem setFcrc_ioDraws (v : Half) : (s.setFcrc v).ioDraws = s.ioDraws := rfl
@[simp] theorem setFcrc_host (v : Half) : (s.setFcrc v).host = s.host := rfl

/-! ### setErrValues -/

@[simp] theorem setErrValues_crc (stored computed : Half) : (s.setErrValues stored computed).crc = s.crc := rfl
@[simp] theorem setErrValues_fcrc (stored computed : Half) : (s.setErrValues stored computed).fcrc = s.fcrc := rfl
@[simp] theorem setErrValues_buf (stored computed : Half) : (s.setErrValues stored computed).buf = s.buf := rfl
@[simp] theorem setErrValues_rstate (stored computed : Half) :
    (s.setErrValues stored computed).rstate = s.rstate := rfl
@[simp] theorem setErrValues_declBE (stored computed : Half) :
    (s.setErrValues stored computed).declBE = s.declBE := rfl
@[simp] theorem setErrValues_hopen (stored computed : Half) : (s.setErrValues stored computed).hopen = s.hopen := rfl
@[simp] theorem setErrValues_npay (stored computed : Half) : (s.setErrValues stored computed).npay = s.npay := rfl
@[simp] theorem setErrValues_cur (stored computed : Half) : (s.setErrValues stored computed).cur = s.cur := rfl
@[simp] theorem setErrValues_wlen (stored computed : Half) : (s.setErrValues stored computed).wlen = s.wlen := rfl
@[simp] theorem setErrValues_err (stored computed : Half) : (s.setErrValues stored computed).err = s.err := rfl
@[simp] theorem setErrValues_errStored (stored computed : Half) :
    (s.setErrValues stored computed).errStored = stored := rfl
@[simp] theorem setErrValues_errComputed (stored computed : Half) :
    (s.setErrValues stored computed).errComputed = computed := rfl
@[simp] theorem setErrValues_src (stored computed : Half) : (s.setErrValues stored computed).src = s.src := rfl
@[simp] theorem setErrValues_stream (stored computed : Half) :
    (s.setErrValues stored computed).stream = s.stream := rfl
@[simp] theorem setErrValues_fout (stored computed : Half) : (s.setErrValues stored computed).fout = s.fout := rfl
@[simp] theorem setErrValues_resp (stored computed : Half) : (s.setErrValues stored computed).resp = s.resp := rfl
@[simp] theorem setErrValues_params (stored computed : Half) :
    (s.setErrValues stored computed).params = s.params := rfl
@[simp] theorem setErrValues_ioDraws (stored computed : Half) :
    (s.setErrValues stored computed).ioDraws = s.ioDraws := rfl
@[simp] theorem setErrValues_host (stored computed : Half) : (s.setErrValues stored computed).host = s.host := rfl

/-! ### fail -/

@[simp] theorem fail_crc (kind : ErrKind) (cause : Byte) : (fail kind cause s).2.crc = s.crc := by cases kind <;> rfl
@[simp] theorem fail_fcrc (kind : ErrKind) (cause : Byte) :
    (fail kind cause s).2.fcrc = s.fcrc := by cases kind <;> rfl
@[simp] theorem fail_buf (kind : ErrKind) (cause : Byte) : (fail kind cause s).2.buf = s.buf := by cases kind <;> rfl
@[simp] theorem fail_rstate (kind : ErrKind) (cause : Byte) :
    (fail kind cause s).2.rstate = .failed := by cases kind <;> rfl
@[simp] theorem fail_declBE (kind : ErrKind) (cause : Byte) :
    (fail kind cause s).2.declBE = s.declBE := by cases kind <;> rfl
@[simp] theorem fail_hopen (kind : ErrKind) (cause : Byte) :
    (fail kind cause s).2.hopen = false := by cases kind <;> rfl
@[simp] theorem fail_npay (kind : ErrKind) (cause : Byte) :
    (fail kind cause s).2.npay = s.npay := by cases kind <;> rfl
@[simp] theorem fail_cur (kind : ErrKind) (cause : Byte) : (fail kind cause s).2.cur = s.cur := by cases kind <;> rfl
@[simp] theorem fail_wlen (kind : ErrKind) (cause : Byte) :
    (fail kind cause s).2.wlen = s.wlen := by cases kind <;> rfl
@[simp] theorem fail_err (kind : ErrKind) (cause : Byte) :
    (fail kind cause s).2.err = errValue kind cause := by cases kind <;> rfl
@[simp] theorem fail_errStored (kind : ErrKind) (cause : Byte) :
    (fail kind cause s).2.errStored = s.errStored := by cases kind <;> rfl
@[simp] theorem fail_errComputed (kind : ErrKind) (cause : Byte) :
    (fail kind cause s).2.errComputed = s.errComputed := by cases kind <;> rfl
@[simp] theorem fail_src (kind : ErrKind) (cause : Byte) : (fail kind cause s).2.src = s.src := by cases kind <;> rfl
@[simp] theorem fail_stream (kind : ErrKind) (cause : Byte) :
    (fail kind cause s).2.stream = s.stream := by cases kind <;> rfl
@[simp] theorem fail_fout (kind : ErrKind) (cause : Byte) :
    (fail kind cause s).2.fout = s.fout := by cases kind <;> rfl
@[simp] theorem fail_resp (kind : ErrKind) (cause : Byte) :
    (fail kind cause s).2.resp = s.resp := by cases kind <;> rfl
@[simp] theorem fail_params (kind : ErrKind) (cause : Byte) :
    (fail kind cause s).2.params = s.params := by cases kind <;> rfl
@[simp] theorem fail_ioDraws (kind : ErrKind) (cause : Byte) :
    (fail kind cause s).2.ioDraws = s.ioDraws := by cases kind <;> rfl
@[simp] theorem fail_host (kind : ErrKind) (cause : Byte) :
    (fail kind cause s).2.host = s.host := by cases kind <;> rfl

/-! ### beginOpen -/

@[simp] theorem beginOpen_crc (be : Bool) (n : Half) : (s.beginOpen be n).crc = s.crc := rfl
@[simp] theorem beginOpen_fcrc (be : Bool) (n : Half) : (s.beginOpen be n).fcrc = 0xFFFF#16 := rfl
@[simp] theorem beginOpen_buf (be : Bool) (n : Half) : (s.beginOpen be n).buf = s.buf := rfl
@[simp] theorem beginOpen_rstate (be : Bool) (n : Half) : (s.beginOpen be n).rstate = .idle := rfl
@[simp] theorem beginOpen_declBE (be : Bool) (n : Half) : (s.beginOpen be n).declBE = be := rfl
@[simp] theorem beginOpen_hopen (be : Bool) (n : Half) : (s.beginOpen be n).hopen = false := rfl
@[simp] theorem beginOpen_npay (be : Bool) (n : Half) : (s.beginOpen be n).npay = n := rfl
@[simp] theorem beginOpen_cur (be : Bool) (n : Half) : (s.beginOpen be n).cur = 0 := rfl
@[simp] theorem beginOpen_wlen (be : Bool) (n : Half) : (s.beginOpen be n).wlen = 0 := rfl
@[simp] theorem beginOpen_err (be : Bool) (n : Half) : (s.beginOpen be n).err = 0#16 := rfl
@[simp] theorem beginOpen_errStored (be : Bool) (n : Half) : (s.beginOpen be n).errStored = 0#16 := rfl
@[simp] theorem beginOpen_errComputed (be : Bool) (n : Half) : (s.beginOpen be n).errComputed = 0#16 := rfl
@[simp] theorem beginOpen_src (be : Bool) (n : Half) : (s.beginOpen be n).src = s.src := rfl
@[simp] theorem beginOpen_stream (be : Bool) (n : Half) : (s.beginOpen be n).stream = [] := rfl
@[simp] theorem beginOpen_fout (be : Bool) (n : Half) : (s.beginOpen be n).fout = s.fout := rfl
@[simp] theorem beginOpen_resp (be : Bool) (n : Half) : (s.beginOpen be n).resp = s.resp := rfl
@[simp] theorem beginOpen_params (be : Bool) (n : Half) : (s.beginOpen be n).params = s.params := rfl
@[simp] theorem beginOpen_ioDraws (be : Bool) (n : Half) : (s.beginOpen be n).ioDraws = s.ioDraws := rfl
@[simp] theorem beginOpen_host (be : Bool) (n : Half) : (s.beginOpen be n).host = s.host := rfl

/-! ### snapshot -/

@[simp] theorem snapshot_crc (bytes : List Byte) : (s.snapshot bytes).crc = s.crc := rfl
@[simp] theorem snapshot_fcrc (bytes : List Byte) : (s.snapshot bytes).fcrc = s.fcrc := rfl
@[simp] theorem snapshot_buf (bytes : List Byte) : (s.snapshot bytes).buf = s.buf := rfl
@[simp] theorem snapshot_rstate (bytes : List Byte) : (s.snapshot bytes).rstate = .reading := rfl
@[simp] theorem snapshot_declBE (bytes : List Byte) : (s.snapshot bytes).declBE = s.declBE := rfl
@[simp] theorem snapshot_hopen (bytes : List Byte) : (s.snapshot bytes).hopen = true := rfl
@[simp] theorem snapshot_npay (bytes : List Byte) : (s.snapshot bytes).npay = s.npay := rfl
@[simp] theorem snapshot_cur (bytes : List Byte) : (s.snapshot bytes).cur = s.cur := rfl
@[simp] theorem snapshot_wlen (bytes : List Byte) : (s.snapshot bytes).wlen = bytes.length / 2 := rfl
@[simp] theorem snapshot_err (bytes : List Byte) : (s.snapshot bytes).err = s.err := rfl
@[simp] theorem snapshot_errStored (bytes : List Byte) : (s.snapshot bytes).errStored = s.errStored := rfl
@[simp] theorem snapshot_errComputed (bytes : List Byte) : (s.snapshot bytes).errComputed = s.errComputed := rfl
@[simp] theorem snapshot_src (bytes : List Byte) : (s.snapshot bytes).src = s.src := rfl
@[simp] theorem snapshot_stream (bytes : List Byte) : (s.snapshot bytes).stream = bytes := rfl
@[simp] theorem snapshot_fout (bytes : List Byte) : (s.snapshot bytes).fout = s.fout := rfl
@[simp] theorem snapshot_resp (bytes : List Byte) : (s.snapshot bytes).resp = s.resp := rfl
@[simp] theorem snapshot_params (bytes : List Byte) : (s.snapshot bytes).params = s.params := rfl
@[simp] theorem snapshot_ioDraws (bytes : List Byte) : (s.snapshot bytes).ioDraws = s.ioDraws := rfl
@[simp] theorem snapshot_host (bytes : List Byte) : (s.snapshot bytes).host = s.host := rfl

/-! ### openError -/

@[simp] theorem openError_crc (kind : ErrKind) : (s.openError kind).crc = s.crc := rfl
@[simp] theorem openError_fcrc (kind : ErrKind) : (s.openError kind).fcrc = s.fcrc := rfl
@[simp] theorem openError_buf (kind : ErrKind) : (s.openError kind).buf = s.buf := rfl
@[simp] theorem openError_rstate (kind : ErrKind) : (s.openError kind).rstate = s.rstate := rfl
@[simp] theorem openError_declBE (kind : ErrKind) : (s.openError kind).declBE = s.declBE := rfl
@[simp] theorem openError_hopen (kind : ErrKind) : (s.openError kind).hopen = s.hopen := rfl
@[simp] theorem openError_npay (kind : ErrKind) : (s.openError kind).npay = s.npay := rfl
@[simp] theorem openError_cur (kind : ErrKind) : (s.openError kind).cur = s.cur := rfl
@[simp] theorem openError_wlen (kind : ErrKind) : (s.openError kind).wlen = s.wlen := rfl
@[simp] theorem openError_err (kind : ErrKind) : (s.openError kind).err = errValue kind 0#8 := rfl
@[simp] theorem openError_errStored (kind : ErrKind) : (s.openError kind).errStored = s.errStored := rfl
@[simp] theorem openError_errComputed (kind : ErrKind) : (s.openError kind).errComputed = s.errComputed := rfl
@[simp] theorem openError_src (kind : ErrKind) : (s.openError kind).src = s.src := rfl
@[simp] theorem openError_stream (kind : ErrKind) : (s.openError kind).stream = s.stream := rfl
@[simp] theorem openError_fout (kind : ErrKind) : (s.openError kind).fout = s.fout := rfl
@[simp] theorem openError_resp (kind : ErrKind) : (s.openError kind).resp = s.resp := rfl
@[simp] theorem openError_params (kind : ErrKind) : (s.openError kind).params = s.params := rfl
@[simp] theorem openError_ioDraws (kind : ErrKind) : (s.openError kind).ioDraws = s.ioDraws := rfl
@[simp] theorem openError_host (kind : ErrKind) : (s.openError kind).host = s.host := rfl

/-! ### applyReset -/

@[simp] theorem applyReset_crc : (s.applyReset).crc = 0xFFFF#16 := rfl
@[simp] theorem applyReset_fcrc : (s.applyReset).fcrc = 0xFFFF#16 := rfl
@[simp] theorem applyReset_buf : (s.applyReset).buf = [] := rfl
@[simp] theorem applyReset_rstate : (s.applyReset).rstate = .idle := rfl
@[simp] theorem applyReset_declBE : (s.applyReset).declBE = false := rfl
@[simp] theorem applyReset_hopen : (s.applyReset).hopen = false := rfl
@[simp] theorem applyReset_npay : (s.applyReset).npay = 0#16 := rfl
@[simp] theorem applyReset_cur : (s.applyReset).cur = 0 := rfl
@[simp] theorem applyReset_wlen : (s.applyReset).wlen = 0 := rfl
@[simp] theorem applyReset_err : (s.applyReset).err = 0#16 := rfl
@[simp] theorem applyReset_errStored : (s.applyReset).errStored = 0#16 := rfl
@[simp] theorem applyReset_errComputed : (s.applyReset).errComputed = 0#16 := rfl
@[simp] theorem applyReset_src : (s.applyReset).src = none := rfl
@[simp] theorem applyReset_stream : (s.applyReset).stream = [] := rfl
@[simp] theorem applyReset_fout : (s.applyReset).fout = [] := rfl
@[simp] theorem applyReset_resp : (s.applyReset).resp = [] := rfl
@[simp] theorem applyReset_params : (s.applyReset).params = s.params := rfl
@[simp] theorem applyReset_ioDraws : (s.applyReset).ioDraws = s.ioDraws := rfl
@[simp] theorem applyReset_host : (s.applyReset).host = s.host := rfl

end Sys2Proof.Laws
end

