-- ==== Sys2Proof/Laws/Memory.lean ====
section
/-! SUPPORT. The laws of the memories: reading STREAM (20_memory.md R52, R55, R56, R63) and writing BUF (R59), and
that every operation keeps their form. -/

namespace Sys2Proof.Laws

open Sys2Proof.Machine

/-! ### Words -/

/-- The byte swap exchanges the two orders of a native read (R55). -/
theorem swapBytes_nativeWord (h : Bool) (b0 b1 : Byte) : swapBytes (nativeWord h b0 b1) = nativeWord (!h) b0 b1 := by
  cases h <;> simp only [swapBytes, nativeWord, Bool.not_true, Bool.not_false, if_true, Bool.false_eq_true,
    if_false] <;>
  · ext i hi
    have : i < 16 := hi
    interval_cases i <;> simp [BitVec.getElem_or, BitVec.getElem_shiftLeft, BitVec.getElem_setWidth]

/-- R56's claim about the four cases of the two orders. -/
theorem wordValue_eq_declaredWord (s : State) (b0 b1 : Byte) :
    wordValue s b0 b1 = declaredWord s.declBE b0 b1 := by
  unfold wordValue
  rw [swapBytes_nativeWord]
  cases hd : s.declBE <;> cases hh : s.params.hostBE <;> simp [State.swap, hd, hh, nativeWord, declaredWord]

/-- A word exists exactly where both its bytes do. -/
theorem word_eq_some_iff (s : State) (i : Nat) (w : Half) :
    s.word i = some w ↔ ∃ b0 b1, s.hasWordBytes i b0 b1 ∧ w = declaredWord s.declBE b0 b1 := by
  unfold State.word State.hasWordBytes
  cases h0 : s.streamByte (2 * i) <;> cases h1 : s.streamByte (2 * i + 1) <;>
    simp [wordValue_eq_declaredWord, eq_comm]

/-- Words depend on the stream and the declared order alone. -/
theorem word_congr {s t : State} (hs : t.stream = s.stream) (hd : t.declBE = s.declBE) (i : Nat) :
    t.word i = s.word i := by
  apply Option.ext
  intro w
  simp [word_eq_some_iff, State.hasWordBytes, State.streamByte, hs, hd]

/-- So do sequences of words. -/
theorem wordsFrom_congr {s t : State} (hs : t.stream = s.stream) (hd : t.declBE = s.declBE) (p n : Nat) :
    t.wordsFrom p n = s.wordsFrom p n := by
  induction n generalizing p with
  | zero => rfl
  | succ n ih => simp only [State.wordsFrom, word_congr hs hd, ih]

/-- One word and the words after it. -/
theorem wordsFrom_succ_eq_some (s : State) (p n : Nat) (l : List Half) :
    s.wordsFrom p (n + 1) = some l ↔ ∃ w ws, s.word p = some w ∧ s.wordsFrom (p + 1) n = some ws ∧ l = w :: ws := by
  simp only [State.wordsFrom]
  cases s.word p <;> cases s.wordsFrom (p + 1) n <;> simp [eq_comm]

/-- `n` words are read, no more and no fewer. -/
theorem wordsFrom_length {s : State} {p n : Nat} {ws : List Half} (h : s.wordsFrom p n = some ws) :
    ws.length = n := by
  induction n generalizing p ws with
  | zero => simp only [State.wordsFrom, Option.some.injEq] at h; simp [← h]
  | succ n ih =>
    obtain ⟨w, rest, -, hr, rfl⟩ := (wordsFrom_succ_eq_some s p n ws).1 h
    simp [ih hr]

/-- Word `k` of the sequence read is `Word(p + k)` (R63). -/
theorem wordsFrom_getElem? {s : State} {p n : Nat} {ws : List Half} (h : s.wordsFrom p n = some ws) {k : Nat}
    (hk : k < n) : ws[k]? = s.word (p + k) := by
  induction n generalizing p ws k with
  | zero => omega
  | succ n ih =>
    obtain ⟨w, rest, hw, hr, rfl⟩ := (wordsFrom_succ_eq_some s p n ws).1 h
    cases k with
    | zero => simp [hw]
    | succ k => simp [ih hr (show k < n by omega), Nat.add_assoc, Nat.add_comm 1 k]

/-- The words of a frame are its payload words and its checksum word (R119). -/
theorem wordsFrom_append (s : State) (p n : Nat) (ws : List Half) (w : Half) :
    s.wordsFrom p (n + 1) = some (ws ++ [w]) ↔ s.wordsFrom p n = some ws ∧ s.word (p + n) = some w := by
  induction n generalizing p ws with
  | zero =>
    rw [wordsFrom_succ_eq_some]
    cases ws <;> simp [State.wordsFrom]
  | succ n ih =>
    rw [wordsFrom_succ_eq_some]
    cases ws with
    | nil =>
      constructor
      · rintro ⟨v, l, -, hl, he⟩
        have := wordsFrom_length hl
        simp only [List.nil_append, List.cons.injEq] at he
        rw [← he.2] at this
        simp at this
      · rintro ⟨h, -⟩
        have := wordsFrom_length h
        simp at this
    | cons v rest =>
      rw [wordsFrom_succ_eq_some]
      constructor
      · rintro ⟨v', l, hv, hl, he⟩
        simp only [List.cons_append, List.cons.injEq] at he
        obtain ⟨rfl, rfl⟩ := he
        obtain ⟨h1, h2⟩ := (ih (p + 1) rest).1 hl
        exact ⟨⟨v, rest, hv, h1, rfl⟩, by rw [show p + (n + 1) = p + 1 + n by omega]; exact h2⟩
      · rintro ⟨⟨v', l, hv, hl, he⟩, hw⟩
        simp only [List.cons.injEq] at he
        obtain ⟨rfl, rfl⟩ := he
        refine ⟨v, rest ++ [w], hv, (ih (p + 1) rest).2 ⟨hl, ?_⟩, rfl⟩
        rw [show p + 1 + n = p + (n + 1) by omega]
        exact hw

/-- A byte of STREAM exists exactly below its length (R52). -/
theorem streamByte_isSome_iff (s : State) (a : Nat) : (s.streamByte a).isSome = true ↔ a < s.stream.length := by
  simp [State.streamByte]

/-- In a state whose memories have their form, every word below WLEN exists. -/
theorem word_isSome_of_lt {s : State} (hwf : Memory.wf s = true) {i : Nat} (hi : i < s.wlen) :
    ∃ w, s.word i = some w := by
  have hlen : s.stream.length = 2 * s.wlen := by simp [Memory.wf] at hwf; exact hwf.1
  have h0 : 2 * i < s.stream.length := by omega
  have h1 : 2 * i + 1 < s.stream.length := by omega
  exact ⟨_, (word_eq_some_iff s i _).2
    ⟨s.stream[2 * i], s.stream[2 * i + 1], ⟨by simp [State.streamByte, h0], by simp [State.streamByte, h1]⟩, rfl⟩⟩

/-- In such a state the words from `p` on exist as far as WLEN reaches. -/
theorem wordsFrom_isSome_of_le {s : State} (hwf : Memory.wf s = true) {p n : Nat} (h : n ≤ s.wlen - p) :
    ∃ ws, s.wordsFrom p n = some ws := by
  induction n generalizing p with
  | zero => exact ⟨[], rfl⟩
  | succ n ih =>
    obtain ⟨w, hw⟩ := word_isSome_of_lt hwf (show p < s.wlen by omega)
    obtain ⟨ws, hws⟩ := ih (show n ≤ s.wlen - (p + 1) by omega)
    exact ⟨w :: ws, (wordsFrom_succ_eq_some s p n _).2 ⟨w, ws, hw, hws, rfl⟩⟩

/-! ### BUF -/

/-- A write to BUF reads back (R59). -/
theorem writeBuf_bufWord_of_lt (s : State) (ws : List Half) {k : Nat} (hk : k < ws.length) :
    (s.writeBuf ws).bufWord k = ws[k]? := by
  simp [State.bufWord, List.getElem?_append_left hk]

/-- A write to BUF leaves every word beyond it alone (R59). -/
theorem writeBuf_bufWord_of_le (s : State) (ws : List Half) {k : Nat} (hk : ws.length ≤ k) :
    (s.writeBuf ws).bufWord k = s.bufWord k := by
  simp only [State.bufWord, writeBuf_buf, List.getElem?_append_right hk, List.getElem?_drop]
  congr 1
  omega

/-! ### The form of the memories -/

/-- The form as a proposition. -/
theorem memory_wf_iff (s : State) :
    Memory.wf s = true ↔ s.stream.length = 2 * s.wlen ∧ s.buf.length ≤ Config.bufWords := by
  simp [Memory.wf]

/-- The form depends on STREAM, WLEN and BUF alone. -/
theorem memory_wf_congr {s t : State} (hs : t.stream = s.stream) (hl : t.wlen = s.wlen) (hb : t.buf = s.buf) :
    Memory.wf t = Memory.wf s := by
  simp [Memory.wf, hs, hl, hb]

/-- The memories have their form after reset. -/
theorem memory_wf_resetWith (p : Config.Params) : Memory.wf (State.resetWith p) = true := by
  simp [Memory.wf, State.resetWith]

/-- The one memory write of the machine (00_scope.md R9) keeps the form while it stays within BUF's capacity. -/
theorem memory_wf_writeBuf {s : State} {ws : List Half} (h : Memory.wf s = true) (hl : ws.length ≤ Config.bufWords) :
    Memory.wf (s.writeBuf ws) = true := by
  rw [memory_wf_iff] at h ⊢
  refine ⟨by simpa using h.1, ?_⟩
  have h2 := h.2
  simp only [writeBuf_buf, List.length_append, List.length_drop]
  omega

/-- Beginning FR.OPEN, which empties STREAM, keeps the form (41_frame_reader.md R111). -/
theorem memory_wf_beginOpen {s : State} (be : Bool) (n : Half) (h : Memory.wf s = true) :
    Memory.wf (s.beginOpen be n) = true := by
  rw [memory_wf_iff] at h ⊢
  simpa using h.2

/-- A snapshot of even length keeps the form (41_frame_reader.md R111, 10_state.md R27). -/
theorem memory_wf_snapshot {s : State} {bytes : List Byte} (he : bytes.length % 2 = 0) (h : Memory.wf s = true) :
    Memory.wf (s.snapshot bytes) = true := by
  rw [memory_wf_iff] at h ⊢
  refine ⟨?_, by simpa using h.2⟩
  simp only [snapshot_stream, snapshot_wlen]
  omega

/-! ### Frames past the cursor -/

@[simp] theorem atFrame_cur (s : State) (j : Nat) : (s.atFrame j).cur = s.cur + j * (s.npay.toNat + 1) := rfl
@[simp] theorem atFrame_crc (s : State) (j : Nat) : (s.atFrame j).crc = s.crc := rfl
@[simp] theorem atFrame_fcrc (s : State) (j : Nat) : (s.atFrame j).fcrc = s.fcrc := rfl
@[simp] theorem atFrame_buf (s : State) (j : Nat) : (s.atFrame j).buf = s.buf := rfl
@[simp] theorem atFrame_rstate (s : State) (j : Nat) : (s.atFrame j).rstate = s.rstate := rfl
@[simp] theorem atFrame_declBE (s : State) (j : Nat) : (s.atFrame j).declBE = s.declBE := rfl
@[simp] theorem atFrame_hopen (s : State) (j : Nat) : (s.atFrame j).hopen = s.hopen := rfl
@[simp] theorem atFrame_npay (s : State) (j : Nat) : (s.atFrame j).npay = s.npay := rfl
@[simp] theorem atFrame_wlen (s : State) (j : Nat) : (s.atFrame j).wlen = s.wlen := rfl
@[simp] theorem atFrame_err (s : State) (j : Nat) : (s.atFrame j).err = s.err := rfl
@[simp] theorem atFrame_errStored (s : State) (j : Nat) : (s.atFrame j).errStored = s.errStored := rfl
@[simp] theorem atFrame_errComputed (s : State) (j : Nat) : (s.atFrame j).errComputed = s.errComputed := rfl
@[simp] theorem atFrame_src (s : State) (j : Nat) : (s.atFrame j).src = s.src := rfl
@[simp] theorem atFrame_stream (s : State) (j : Nat) : (s.atFrame j).stream = s.stream := rfl
@[simp] theorem atFrame_fout (s : State) (j : Nat) : (s.atFrame j).fout = s.fout := rfl
@[simp] theorem atFrame_resp (s : State) (j : Nat) : (s.atFrame j).resp = s.resp := rfl
@[simp] theorem atFrame_params (s : State) (j : Nat) : (s.atFrame j).params = s.params := rfl
@[simp] theorem atFrame_ioDraws (s : State) (j : Nat) : (s.atFrame j).ioDraws = s.ioDraws := rfl
@[simp] theorem atFrame_host (s : State) (j : Nat) : (s.atFrame j).host = s.host := rfl

/-- No frame past the cursor is the cursor. -/
@[simp] theorem atFrame_zero (s : State) : s.atFrame 0 = s := by simp [State.atFrame]

/-- Moving past `j` frames, then past `k`, is moving past `j + k`. -/
theorem atFrame_atFrame (s : State) (j k : Nat) : (s.atFrame j).atFrame k = s.atFrame (j + k) := by
  simp [State.atFrame, Nat.add_mul, Nat.add_assoc]

/-- A valid frame is one seen from any earlier frame boundary. -/
theorem validFrame_atFrame (s : State) (j k : Nat) (p : List Byte) :
    (s.atFrame j).ValidFrame k p ↔ s.ValidFrame (j + k) p := by
  constructor <;> intro h <;> obtain ⟨hi, hw, hf, hs⟩ := h
  · exact ⟨by rwa [atFrame_atFrame] at hi, hw, by rwa [atFrame_atFrame] at hf, by rwa [atFrame_atFrame] at hs⟩
  · exact ⟨by rwa [atFrame_atFrame], hw, by rwa [atFrame_atFrame], by rwa [atFrame_atFrame]⟩

/-- Whether a frame is valid depends on STREAM, the configuration, HOST_BE and the cursor alone. -/
theorem validFrame_congr {s t : State} (hs : t.stream = s.stream) (hd : t.declBE = s.declBE) (hn : t.npay = s.npay)
    (hp : t.params = s.params) (hc : t.cur = s.cur) (j : Nat) (p : List Byte) :
    t.ValidFrame j p ↔ s.ValidFrame j p := by
  have image : (t.atFrame j).frameImage = (s.atFrame j).frameImage := by
    have swap : (t.atFrame j).swap = (s.atFrame j).swap := by
      simp only [State.swap, atFrame_declBE, atFrame_params, hd, hp]
    simp only [State.frameImage, swap, atFrame_stream, atFrame_cur, atFrame_npay, hs, hn, hc]
  constructor <;> intro h <;> obtain ⟨hi, hw, hf, hst⟩ := h
  · exact ⟨hi.trans image, by rwa [← hn],
      by simpa only [State.hasWordBytes, State.streamByte, atFrame_cur, hs, hd, hn, hc] using hf,
      by simpa only [State.hasWordBytes, State.streamByte, atFrame_cur, hs, hd, hn, hc] using hst⟩
  · exact ⟨hi.trans image.symm, by rwa [hn],
      by simpa only [State.hasWordBytes, State.streamByte, atFrame_cur, hs, hd, hn, hc] using hf,
      by simpa only [State.hasWordBytes, State.streamByte, atFrame_cur, hs, hd, hn, hc] using hst⟩

/-! ### The Frame Reader's part of the state -/

@[simp] theorem withReaderOf_crc (s u : State) : (s.withReaderOf u).crc = s.crc := rfl
@[simp] theorem withReaderOf_resp (s u : State) : (s.withReaderOf u).resp = s.resp := rfl
@[simp] theorem withReaderOf_host (s u : State) : (s.withReaderOf u).host = s.host := rfl
@[simp] theorem withReaderOf_fcrc (s u : State) : (s.withReaderOf u).fcrc = u.fcrc := rfl
@[simp] theorem withReaderOf_buf (s u : State) : (s.withReaderOf u).buf = u.buf := rfl
@[simp] theorem withReaderOf_rstate (s u : State) : (s.withReaderOf u).rstate = u.rstate := rfl
@[simp] theorem withReaderOf_declBE (s u : State) : (s.withReaderOf u).declBE = u.declBE := rfl
@[simp] theorem withReaderOf_hopen (s u : State) : (s.withReaderOf u).hopen = u.hopen := rfl
@[simp] theorem withReaderOf_npay (s u : State) : (s.withReaderOf u).npay = u.npay := rfl
@[simp] theorem withReaderOf_wlen (s u : State) : (s.withReaderOf u).wlen = u.wlen := rfl
@[simp] theorem withReaderOf_err (s u : State) : (s.withReaderOf u).err = u.err := rfl
@[simp] theorem withReaderOf_errStored (s u : State) : (s.withReaderOf u).errStored = u.errStored := rfl
@[simp] theorem withReaderOf_errComputed (s u : State) : (s.withReaderOf u).errComputed = u.errComputed := rfl
@[simp] theorem withReaderOf_src (s u : State) : (s.withReaderOf u).src = u.src := rfl
@[simp] theorem withReaderOf_stream (s u : State) : (s.withReaderOf u).stream = u.stream := rfl
@[simp] theorem withReaderOf_fout (s u : State) : (s.withReaderOf u).fout = u.fout := rfl
@[simp] theorem withReaderOf_params (s u : State) : (s.withReaderOf u).params = u.params := rfl
@[simp] theorem withReaderOf_ioDraws (s u : State) : (s.withReaderOf u).ioDraws = u.ioDraws := rfl
@[simp] theorem withReaderOf_cur (s u : State) : (s.withReaderOf u).cur = u.cur := rfl

end Sys2Proof.Laws
end

