-- ==== Sys2Proof/Laws/Ops.lean ====
section
/-! SUPPORT. What the shared operations do, once for each: the error entry (60_exceptions.md R160), the gate of the
reading commands (41_frame_reader.md R117), the end of a step. Later proofs cite these instead of unfolding. -/

namespace Sys2Proof.Laws

open Sys2Proof.Machine

/-! ### Errors -/

/-- ERR after `Fail` names the kind (R155). -/
@[simp] theorem errValue_kind (kind : ErrKind) (cause : Byte) : (errValue kind cause).extractLsb' 0 8 = kind.code := by
  cases kind <;>
  · ext i hi
    have : i < 8 := hi
    interval_cases i <;> simp [errValue, ErrKind.code, BitVec.getElem_extractLsb']

/-- ERR after `Fail` names the cause (R155). -/
@[simp] theorem errValue_cause (kind : ErrKind) (cause : Byte) : (errValue kind cause).extractLsb' 8 8 = cause := by
  cases kind <;>
  · ext i hi
    have : i < 8 := hi
    interval_cases i <;>
      simp [errValue, ErrKind.code, BitVec.getElem_extractLsb', BitVec.getLsbD_eq_getElem]

/-- The six values of ERR (R155). -/
theorem errValue_table :
    errValue .io 0#8 = 0x0080#16 ∧ errValue .io 1#8 = 0x0180#16 ∧ errValue .io 2#8 = 0x0280#16 ∧
    errValue .format 0#8 = 0x0081#16 ∧ errValue .format 1#8 = 0x0181#16 ∧ errValue .integrity 0#8 = 0x0082#16 := by
  decide

/-- The answer of `Fail` (R160). -/
theorem fail_answer (kind : ErrKind) (cause : Byte) (s : State) :
    (fail kind cause s).1 = match kind with
      | .io => .error 0x80#8 cause
      | .format => .error 0x81#8 cause
      | .integrity => .integrityError s.errStored s.errComputed := by
  cases kind <;> rfl

/-! ### The gate -/

/-- The gate lets a reading command through exactly in Reading (R117). -/
theorem readerGate_eq_none_iff (s : State) : s.readerGate = none ↔ s.rstate = .reading := by
  cases h : s.rstate <;> simp [State.readerGate, h]

/-- The gate's answer in each state other than Reading (R117). -/
theorem readerGate_eq_some_iff (s : State) (v : Response) :
    s.readerGate = some v ↔
      (s.rstate = .idle ∧ v = .error 0x80#8 2#8) ∨ (s.rstate = .terminated ∧ v = .endOfStream) ∨
        (s.rstate = .failed ∧ v = s.latchedError) := by
  cases h : s.rstate <;> simp [State.readerGate, h, ErrKind.code, eq_comm]

/-- Everything a reading command that completes can have done: answered from the gate outside Reading, or run its own
procedure in Reading. -/
theorem throughGate_eq_next_iff (body : State → Except Fault (Response × State)) (s t : State) :
    throughGate body s = .next t ↔
      (s.rstate ≠ .reading ∧ ∃ v, s.readerGate = some v ∧ t = s.respond v) ∨
        (s.rstate = .reading ∧ ∃ r u, body s = .ok (r, u) ∧ t = u.respond r) := by
  unfold throughGate
  cases hg : s.readerGate with
  | some v =>
    have hr : s.rstate ≠ .reading := by
      intro h; rw [(readerGate_eq_none_iff s).2 h] at hg; cases hg
    simp [hr, eq_comm]
  | none =>
    have hr := (readerGate_eq_none_iff s).1 hg
    cases hb : body s with
    | error f => simp [finish, hr]
    | ok q => obtain ⟨r, u⟩ := q; simp [finish, hr, eq_comm]

/-- In Reading a reading command is its own procedure. -/
theorem throughGate_of_reading {body : State → Except Fault (Response × State)} {s : State}
    (h : s.rstate = .reading) : throughGate body s = finish (body s) := by
  simp [throughGate, (readerGate_eq_none_iff s).2 h]

/-- Outside Reading a reading command answers from the gate. -/
theorem throughGate_of_not_reading {body : State → Except Fault (Response × State)} {s : State} {v : Response}
    (h : s.readerGate = some v) : throughGate body s = .next (s.respond v) := by
  simp [throughGate, h]

end Sys2Proof.Laws
end

