-- ==== Sys2Proof/Laws/FrameReader.lean ====
section
/-! SUPPORT. What the procedures of the Frame Reader can do, once for each: `ReadWords` behind FR.READW
(41_frame_reader.md R112), `NextFrame` (R113), the loop of FR.ALL (R115). Each case names the tests that lead to it,
its answer, and the whole state after it. -/

namespace Sys2Proof.Laws

open Sys2Proof.Machine

/-! ### FR.READW -/

/-- The ways FR.READW can end in Reading (R112), in the order of its tests. -/
inductive ReadwCase (count : Nat) (s : State) : Response → State → Prop where
  | closed : s.hopen = false →
      ReadwCase count s (.error 0x80#8 2#8) { s with err := 0x0280#16, rstate := .failed, hopen := false }
  | ioFailure : s.hopen = true → s.ioFail = true →
      ReadwCase count s (.error 0x80#8 1#8)
        { s with err := 0x0180#16, rstate := .failed, hopen := false, ioDraws := s.ioDraws.tail }
  | truncated : s.hopen = true → s.ioFail = false → s.wlen - s.cur < count →
      ReadwCase count s (.error 0x81#8 1#8)
        { s with err := 0x0181#16, rstate := .failed, hopen := false, ioDraws := s.ioDraws.tail }
  | words (ws : List Half) : s.hopen = true → s.ioFail = false → count ≤ s.wlen - s.cur →
      s.wordsFrom s.cur count = some ws →
      ReadwCase count s (.words ws)
        { s with buf := ws ++ s.buf.drop ws.length, cur := s.cur + count, ioDraws := s.ioDraws.tail }

/-- FR.READW in Reading does one of these things and nothing else. -/
theorem readwBody_eq_ok_iff (count : Nat) (s : State) (r : Response) (t : State) :
    readwBody count s = .ok (r, t) ↔ ReadwCase count s r t := by
  constructor
  · intro h
    unfold readwBody readWords at h
    by_cases ho : s.hopen = false
    · simp only [ho, if_true, Except.ok.injEq, fail, Prod.mk.injEq] at h
      obtain ⟨rfl, rfl⟩ := h
      exact .closed ho
    · have ho' : s.hopen = true := by simpa using ho
      by_cases hi : s.ioFail = true
      · simp only [ho', Bool.true_eq_false, if_false, hi, if_true, Except.ok.injEq, fail, Prod.mk.injEq] at h
        obtain ⟨rfl, rfl⟩ := h
        exact .ioFailure ho' hi
      · have hi' : s.ioFail = false := by simpa using hi
        by_cases hl : s.wlen - s.cur < count
        · simp only [ho', Bool.true_eq_false, hi', Bool.false_eq_true, if_false, hl, if_true, Except.ok.injEq, fail,
            Prod.mk.injEq] at h
          obtain ⟨rfl, rfl⟩ := h
          exact .truncated ho' hi' hl
        · simp only [ho', Bool.true_eq_false, hi', Bool.false_eq_true, if_false, hl] at h
          cases hw : s.wordsFrom s.cur count with
          | none => simp [hw] at h
          | some ws =>
            simp only [hw, Except.ok.injEq, Prod.mk.injEq] at h
            obtain ⟨rfl, rfl⟩ := h
            exact .words ws ho' hi' (by omega) hw
  · intro h
    cases h with
    | closed ho =>
      conv_lhs => simp only [readwBody, readWords, ho, if_true, fail]
      rfl
    | ioFailure ho hi =>
      conv_lhs => simp only [readwBody, readWords, ho, hi, Bool.true_eq_false, if_true, if_false, fail]
      rfl
    | truncated ho hi hl =>
      conv_lhs => simp only [readwBody, readWords, ho, hi, hl, Bool.true_eq_false, Bool.false_eq_true, if_true, if_false, fail]
      rfl
    | words ws ho hi hl hw =>
      conv_lhs => simp only [readwBody, readWords, ho, hi, show ¬ s.wlen - s.cur < count by omega, hw, Bool.true_eq_false,
        Bool.false_eq_true, if_false]
      rfl

/-! ### FR.NEXT -/

/-- The ways `NextFrame` can end (R113), in the order of its tests (60_exceptions.md R158). -/
inductive NextCase (s : State) : Response → State → Prop where
  | closed : s.hopen = false →
      NextCase s (.error 0x80#8 2#8) { s with err := 0x0280#16, rstate := .failed, hopen := false }
  | ioFailure : s.hopen = true → s.ioFail = true →
      NextCase s (.error 0x80#8 1#8)
        { s with err := 0x0180#16, rstate := .failed, hopen := false, ioDraws := s.ioDraws.tail }
  | noWordLeft : s.hopen = true → s.ioFail = false → s.wlen ≤ s.cur → s.params.eofPolicy = .formatError →
      NextCase s (.error 0x81#8 1#8)
        { s with err := 0x0181#16, rstate := .failed, hopen := false, ioDraws := s.ioDraws.tail }
  | cleanEnd : s.hopen = true → s.ioFail = false → s.wlen ≤ s.cur → s.params.eofPolicy = .endOfStream →
      NextCase s .endOfStream { s with rstate := .terminated, hopen := false, ioDraws := s.ioDraws.tail }
  | sentinelFound : s.hopen = true → s.ioFail = false → s.cur < s.wlen → s.word s.cur = some 0xA5A5#16 →
      NextCase s .endOfStream
        { s with cur := s.cur + 1, rstate := .terminated, hopen := false, ioDraws := s.ioDraws.tail }
  | incomplete (w0 : Half) : s.hopen = true → s.ioFail = false → s.cur < s.wlen → s.word s.cur = some w0 →
      w0 ≠ 0xA5A5#16 → s.wlen - s.cur < s.npay.toNat + 1 →
      NextCase s (.error 0x81#8 1#8)
        { s with err := 0x0181#16, rstate := .failed, hopen := false, ioDraws := s.ioDraws.tail }
  | valid (w0 : Half) (ws : List Half) (stored : Half) : s.hopen = true → s.ioFail = false →
      s.npay.toNat + 1 ≤ s.wlen - s.cur → s.word s.cur = some w0 → w0 ≠ 0xA5A5#16 →
      s.wordsFrom s.cur s.npay.toNat = some ws → s.word (s.cur + s.npay.toNat) = some stored →
      checksum (payloadBytes s.params.hostBE ws) = stored →
      NextCase s (.frame (payloadBytes s.params.hostBE ws) stored)
        { s with buf := (ws ++ [stored]) ++ s.buf.drop (ws ++ [stored]).length, cur := s.cur + s.npay.toNat + 1,
                 fcrc := checksum (payloadBytes s.params.hostBE ws),
                 fout := s.fout ++ [payloadBytes s.params.hostBE ws], ioDraws := s.ioDraws.tail }
  | mismatch (w0 : Half) (ws : List Half) (stored : Half) : s.hopen = true → s.ioFail = false →
      s.npay.toNat + 1 ≤ s.wlen - s.cur → s.word s.cur = some w0 → w0 ≠ 0xA5A5#16 →
      s.wordsFrom s.cur s.npay.toNat = some ws → s.word (s.cur + s.npay.toNat) = some stored →
      checksum (payloadBytes s.params.hostBE ws) ≠ stored →
      NextCase s (.integrityError stored (checksum (payloadBytes s.params.hostBE ws)))
        { s with buf := (ws ++ [stored]) ++ s.buf.drop (ws ++ [stored]).length, cur := s.cur + s.npay.toNat + 1,
                 fcrc := checksum (payloadBytes s.params.hostBE ws), err := 0x0082#16, rstate := .failed,
                 hopen := false, errStored := stored,
                 errComputed := checksum (payloadBytes s.params.hostBE ws), ioDraws := s.ioDraws.tail }

/-- The words of `s` after its draw is used are the words of `s`. -/
@[simp] theorem useDraw_word (s : State) (i : Nat) : s.useDraw.word i = s.word i := word_congr rfl rfl i

/-- The same for a sequence of words. -/
@[simp] theorem useDraw_wordsFrom (s : State) (p n : Nat) : s.useDraw.wordsFrom p n = s.wordsFrom p n :=
  wordsFrom_congr (s := s) (t := s.useDraw) rfl rfl p n

/-- `NextFrame` does one of these things and nothing else. -/
theorem nextFrame_eq_ok_iff (s : State) (r : Response) (t : State) :
    nextFrame s = .ok (r, t) ↔ NextCase s r t := by
  constructor
  · intro h
    unfold nextFrame at h
    by_cases ho : s.hopen = false
    · simp only [ho, if_true, Except.ok.injEq, fail, Prod.mk.injEq] at h
      obtain ⟨rfl, rfl⟩ := h
      exact .closed ho
    have ho' : s.hopen = true := by simpa using ho
    by_cases hi : s.ioFail = true
    · simp only [ho', Bool.true_eq_false, if_false, hi, if_true, Except.ok.injEq, fail, Prod.mk.injEq] at h
      obtain ⟨rfl, rfl⟩ := h
      exact .ioFailure ho' hi
    have hi' : s.ioFail = false := by simpa using hi
    simp only [ho', Bool.true_eq_false, hi', Bool.false_eq_true, if_false, nextFrameAt, useDraw_wlen, useDraw_cur,
      useDraw_word, useDraw_npay] at h
    by_cases hl : s.wlen - s.cur < 1
    · simp only [hl, if_true, endOfFile, useDraw_params] at h
      cases hp : s.params.eofPolicy with
      | formatError =>
        simp only [hp, Except.ok.injEq, fail, Prod.mk.injEq] at h
        obtain ⟨rfl, rfl⟩ := h
        exact .noWordLeft ho' hi' (by omega) hp
      | endOfStream =>
        simp only [hp, Except.ok.injEq, Prod.mk.injEq] at h
        obtain ⟨rfl, rfl⟩ := h
        exact .cleanEnd ho' hi' (by omega) hp
    simp only [hl, if_false] at h
    cases hw : s.word s.cur with
    | none => simp [hw] at h
    | some w0 =>
      simp only [hw] at h
      by_cases hs : w0 = 0xA5A5#16
      · subst hs
        simp only [isSentinel, sentinel, beq_self_eq_true, if_true, Except.ok.injEq, Prod.mk.injEq] at h
        obtain ⟨rfl, rfl⟩ := h
        exact .sentinelFound ho' hi' (by omega) hw
      · simp only [isSentinel, sentinel, beq_iff_eq, hs, if_false] at h
        by_cases hn : s.wlen - s.cur < s.npay.toNat + 1
        · simp only [hn, if_true, Except.ok.injEq, fail, Prod.mk.injEq] at h
          obtain ⟨rfl, rfl⟩ := h
          exact .incomplete w0 ho' hi' (by omega) hw hs hn
        · simp only [hn, if_false, readFrame, useDraw_cur, useDraw_npay, useDraw_wordsFrom, useDraw_word] at h
          cases hws : s.wordsFrom s.cur s.npay.toNat with
          | none => simp [hws] at h
          | some ws =>
            cases hst : s.word (s.cur + s.npay.toNat) with
            | none => simp [hws, hst] at h
            | some stored =>
              simp only [hws, hst, Except.ok.injEq, checkFrame, checksumMatches, setCur_params, writeBuf_params,
                useDraw_params, beq_iff_eq] at h
              by_cases hc : checksum (payloadBytes s.params.hostBE ws) = stored
              · simp only [hc, if_true, Prod.mk.injEq] at h
                obtain ⟨rfl, rfl⟩ := h
                subst hc
                exact .valid w0 ws _ ho' hi' (by omega) hw hs hws hst rfl
              · simp only [hc, if_false, fail, Prod.mk.injEq] at h
                obtain ⟨rfl, rfl⟩ := h
                exact .mismatch w0 ws stored ho' hi' (by omega) hw hs hws hst hc
  · intro h
    cases h with
    | closed ho =>
      conv_lhs => simp only [nextFrame, ho, if_true, fail]
      rfl
    | ioFailure ho hi =>
      conv_lhs => simp only [nextFrame, ho, hi, Bool.true_eq_false, if_true, if_false, fail]
      rfl
    | noWordLeft ho hi hl hp =>
      conv_lhs => simp only [nextFrame, nextFrameAt, ho, hi, Bool.true_eq_false, Bool.false_eq_true, if_false, useDraw_wlen,
        useDraw_cur, show s.wlen - s.cur < 1 by omega, if_true, endOfFile, useDraw_params, hp, fail]
      rfl
    | cleanEnd ho hi hl hp =>
      conv_lhs => simp only [nextFrame, nextFrameAt, ho, hi, Bool.true_eq_false, Bool.false_eq_true, if_false, useDraw_wlen,
        useDraw_cur, show s.wlen - s.cur < 1 by omega, if_true, endOfFile, useDraw_params, hp]
      rfl
    | sentinelFound ho hi hl hw =>
      conv_lhs => simp only [nextFrame, nextFrameAt, ho, hi, Bool.true_eq_false, Bool.false_eq_true, if_false, useDraw_wlen,
        useDraw_cur, show ¬ s.wlen - s.cur < 1 by omega, useDraw_word, hw, isSentinel, sentinel, beq_self_eq_true,
        if_true]
      rfl
    | incomplete w0 ho hi hl hw hs hn =>
      conv_lhs => simp only [nextFrame, nextFrameAt, ho, hi, Bool.true_eq_false, Bool.false_eq_true, if_false, useDraw_wlen,
        useDraw_cur, useDraw_npay, show ¬ s.wlen - s.cur < 1 by omega, useDraw_word, hw, isSentinel, sentinel,
        beq_iff_eq, hs, hn, if_true, fail]
      rfl
    | valid w0 ws stored ho hi hl hw hs hws hst hc =>
      conv_lhs => simp only [nextFrame, nextFrameAt, ho, hi, Bool.true_eq_false, Bool.false_eq_true, if_false, useDraw_wlen,
        useDraw_cur, useDraw_npay, show ¬ s.wlen - s.cur < 1 by omega, useDraw_word, hw, isSentinel, sentinel,
        beq_iff_eq, hs, show ¬ s.wlen - s.cur < s.npay.toNat + 1 by omega, readFrame, useDraw_wordsFrom, hws, hst,
        checkFrame, checksumMatches, setCur_params, writeBuf_params, useDraw_params, beq_iff_eq, if_pos hc]
      rfl
    | mismatch w0 ws stored ho hi hl hw hs hws hst hc =>
      conv_lhs => simp only [nextFrame, nextFrameAt, ho, hi, Bool.true_eq_false, Bool.false_eq_true, if_false, useDraw_wlen,
        useDraw_cur, useDraw_npay, show ¬ s.wlen - s.cur < 1 by omega, useDraw_word, hw, isSentinel, sentinel,
        beq_iff_eq, hs, show ¬ s.wlen - s.cur < s.npay.toNat + 1 by omega, readFrame, useDraw_wordsFrom, hws, hst,
        checkFrame, checksumMatches, setCur_params, writeBuf_params, useDraw_params, beq_iff_eq, if_neg hc, fail]
      rfl

/-- `NextFrame` never faults in a state whose memories have their form. -/
theorem nextFrame_completes {s : State} (hwf : Memory.wf s = true) : ∃ r t, nextFrame s = .ok (r, t) := by
  by_cases ho : s.hopen = false
  · exact ⟨_, _, (nextFrame_eq_ok_iff s _ _).2 (.closed ho)⟩
  have ho' : s.hopen = true := by simpa using ho
  by_cases hi : s.ioFail = true
  · exact ⟨_, _, (nextFrame_eq_ok_iff s _ _).2 (.ioFailure ho' hi)⟩
  have hi' : s.ioFail = false := by simpa using hi
  by_cases hl : s.wlen ≤ s.cur
  · cases hp : s.params.eofPolicy with
    | formatError => exact ⟨_, _, (nextFrame_eq_ok_iff s _ _).2 (.noWordLeft ho' hi' hl hp)⟩
    | endOfStream => exact ⟨_, _, (nextFrame_eq_ok_iff s _ _).2 (.cleanEnd ho' hi' hl hp)⟩
  obtain ⟨w0, hw⟩ := word_isSome_of_lt hwf (show s.cur < s.wlen by omega)
  by_cases hs : w0 = 0xA5A5#16
  · exact ⟨_, _, (nextFrame_eq_ok_iff s _ _).2 (.sentinelFound ho' hi' (by omega) (hs ▸ hw))⟩
  by_cases hn : s.wlen - s.cur < s.npay.toNat + 1
  · exact ⟨_, _, (nextFrame_eq_ok_iff s _ _).2 (.incomplete w0 ho' hi' (by omega) hw hs hn)⟩
  obtain ⟨ws, hws⟩ := wordsFrom_isSome_of_le hwf (show s.npay.toNat ≤ s.wlen - s.cur by omega)
  obtain ⟨st, hst⟩ := word_isSome_of_lt hwf (show s.cur + s.npay.toNat < s.wlen by omega)
  by_cases hc : checksum (payloadBytes s.params.hostBE ws) = st
  · exact ⟨_, _, (nextFrame_eq_ok_iff s _ _).2 (.valid w0 ws st ho' hi' (by omega) hw hs hws hst hc)⟩
  · exact ⟨_, _, (nextFrame_eq_ok_iff s _ _).2 (.mismatch w0 ws st ho' hi' (by omega) hw hs hws hst hc)⟩

/-- FR.READW never faults in a state whose memories have their form. -/
theorem readwBody_completes {s : State} (hwf : Memory.wf s = true) (count : Nat) :
    ∃ r t, readwBody count s = .ok (r, t) := by
  by_cases ho : s.hopen = false
  · exact ⟨_, _, (readwBody_eq_ok_iff count s _ _).2 (.closed ho)⟩
  have ho' : s.hopen = true := by simpa using ho
  by_cases hi : s.ioFail = true
  · exact ⟨_, _, (readwBody_eq_ok_iff count s _ _).2 (.ioFailure ho' hi)⟩
  have hi' : s.ioFail = false := by simpa using hi
  by_cases hl : s.wlen - s.cur < count
  · exact ⟨_, _, (readwBody_eq_ok_iff count s _ _).2 (.truncated ho' hi' hl)⟩
  obtain ⟨ws, hws⟩ := wordsFrom_isSome_of_le hwf (show count ≤ s.wlen - s.cur by omega)
  exact ⟨_, _, (readwBody_eq_ok_iff count s _ _).2 (.words ws ho' hi' (by omega) hws)⟩

/-- `NextFrame` keeps the form of the memories. -/
theorem NextCase.memory_wf {s : State} {r : Response} {t : State} (h : NextCase s r t)
    (hwf : Memory.wf s = true) : Memory.wf t = true := by
  have hn : s.npay.toNat < 65536 := s.npay.isLt
  rw [memory_wf_iff] at hwf ⊢
  cases h with
  | valid w0 ws stored _ _ _ _ _ hws _ _ =>
    refine ⟨hwf.1, ?_⟩
    have hl := wordsFrom_length hws
    have h2 := hwf.2
    simp only [Config.bufWords, List.length_append, List.length_drop, List.length_singleton] at h2 ⊢
    omega
  | mismatch w0 ws stored _ _ _ _ _ hws _ _ =>
    refine ⟨hwf.1, ?_⟩
    have hl := wordsFrom_length hws
    have h2 := hwf.2
    simp only [Config.bufWords, List.length_append, List.length_drop, List.length_singleton] at h2 ⊢
    omega
  | _ => exact hwf

/-- FR.READW keeps the form of the memories. -/
theorem ReadwCase.memory_wf {count : Half} {s : State} {r : Response} {t : State} (h : ReadwCase count.toNat s r t)
    (hwf : Memory.wf s = true) : Memory.wf t = true := by
  have hn : count.toNat < 65536 := count.isLt
  rw [memory_wf_iff] at hwf ⊢
  cases h with
  | words ws _ _ _ hws =>
    refine ⟨hwf.1, ?_⟩
    have hl := wordsFrom_length hws
    have h2 := hwf.2
    simp only [Config.bufWords, List.length_append, List.length_drop] at h2 ⊢
    omega
  | _ => exact hwf

/-! ### FR.ALL -/

/-- `NextFrame` answered the Frames of `fs` one after another (R115). -/
inductive FramesRead : State → List (List Byte × Half) → State → Prop where
  | none (s : State) : FramesRead s [] s
  | more {s t u : State} {p : List Byte} {c : Half} {fs : List (List Byte × Half)} :
      NextCase s (.frame p c) t → FramesRead t fs u → FramesRead s ((p, c) :: fs) u

/-- A Frame consumes `NPAY + 1` words of the words left (R121). -/
theorem NextCase.frame_consumes {s t : State} {p : List Byte} {c : Half} (h : NextCase s (.frame p c) t) :
    s.npay.toNat + 1 ≤ s.wlen - s.cur ∧ t.cur = s.cur + (s.npay.toNat + 1) ∧ t.wlen = s.wlen ∧ t.npay = s.npay := by
  cases h with
  | valid w0 ws stored ho hi hl hw hs hws hst hc => exact ⟨hl, by simp [Nat.add_assoc], rfl, rfl⟩

/-- A Frame lowers the bound of R121 by one. -/
theorem NextCase.frame_bound {s t : State} {p : List Byte} {c : Half} (h : NextCase s (.frame p c) t) :
    s.frameBound = t.frameBound + 1 := by
  obtain ⟨hl, hc, hw, hn⟩ := h.frame_consumes
  unfold State.frameBound
  rw [hc, hw, hn, show s.wlen - s.cur = (s.wlen - (s.cur + (s.npay.toNat + 1))) + (s.npay.toNat + 1) by omega,
    Nat.add_div_right _ (Nat.succ_pos _)]

/-- The loop of FR.ALL reads some Frames and ends on the next answer, which is no Frame where the bound of R121 is
within its fuel. -/
theorem allFrames_eq_ok {k : Nat} {s : State} {r : Response} {t : State} (h : allFrames k s = .ok (r, t)) :
    ∃ fs u, FramesRead s fs u ∧ NextCase u r t ∧ fs.length ≤ k ∧ (s.frameBound ≤ k → r.isFrame = false) := by
  induction k generalizing s with
  | zero =>
    refine ⟨[], s, .none s, (nextFrame_eq_ok_iff s r t).1 h, le_refl _, fun hb => ?_⟩
    have hc := (nextFrame_eq_ok_iff s r t).1 h
    cases r with
    | frame p c => have := hc.frame_bound; omega
    | _ => rfl
  | succ k ih =>
    cases hn : nextFrame s with
    | error f => simp [allFrames, hn] at h
    | ok q =>
      obtain ⟨r', s'⟩ := q
      have hc := (nextFrame_eq_ok_iff s r' s').1 hn
      cases hr : r' with
      | frame p c =>
        subst hr
        simp only [allFrames, hn] at h
        obtain ⟨fs, u, hf, hu, hle, hb⟩ := ih h
        have hbound := hc.frame_bound
        exact ⟨(p, c) :: fs, u, .more hc hf, hu, by simp; omega, fun hk => hb (by omega)⟩
      | _ =>
        subst hr
        simp only [allFrames, hn, Except.ok.injEq, Prod.mk.injEq] at h
        obtain ⟨rfl, rfl⟩ := h
        exact ⟨[], s, .none s, hc, by simp, fun _ => rfl⟩

/-- Conversely, Frames and then an answer that is no Frame are what the loop does, given fuel for them. -/
theorem allFrames_of_framesRead {s u : State} {fs : List (List Byte × Half)} {r : Response} {t : State} {k : Nat}
    (hf : FramesRead s fs u) (hu : NextCase u r t) (hr : r.isFrame = false) (hk : fs.length ≤ k) :
    allFrames k s = .ok (r, t) := by
  induction hf generalizing k with
  | none s =>
    have hn := (nextFrame_eq_ok_iff s r t).2 hu
    cases k with
    | zero => exact hn
    | succ k => cases r <;> simp [Response.isFrame] at hr <;> simp only [allFrames, hn]
  | more hc _ ih =>
    cases k with
    | zero => simp at hk
    | succ k =>
      simp only [allFrames, (nextFrame_eq_ok_iff _ _ _).2 hc]
      exact ih hu (by simpa using hk)

/-- The Frames read are within the bound of R121. -/
theorem FramesRead.length_le {s u : State} {fs : List (List Byte × Half)} (h : FramesRead s fs u) :
    fs.length ≤ s.frameBound := by
  induction h with
  | none s => simp
  | more hc _ ih => have := hc.frame_bound; simp; omega

/-- The Frames read keep the form of the memories. -/
theorem FramesRead.memory_wf {s u : State} {fs : List (List Byte × Half)} (h : FramesRead s fs u)
    (hwf : Memory.wf s = true) : Memory.wf u = true := by
  induction h with
  | none s => exact hwf
  | more hc _ ih => exact ih (hc.memory_wf hwf)

/-- FR.ALL never faults in a state whose memories have their form. -/
theorem allFrames_completes {s : State} (hwf : Memory.wf s = true) (k : Nat) : ∃ r t, allFrames k s = .ok (r, t) := by
  induction k generalizing s with
  | zero => exact nextFrame_completes hwf
  | succ k ih =>
    obtain ⟨r, t, hn⟩ := nextFrame_completes hwf
    cases hr : r with
    | frame p c =>
      subst hr
      obtain ⟨r', t', h⟩ := ih (((nextFrame_eq_ok_iff s _ t).1 hn).memory_wf hwf)
      exact ⟨r', t', by simp only [allFrames, hn, h]⟩
    | _ => subst hr; exact ⟨_, t, by rw [allFrames, hn]⟩

/-! ### CRC and RESP are not read (70_reset_and_hazards.md R188) -/

/-- `s` with CRC and RESP replaced has the words of `s`. -/
theorem ports_word (s : State) (c : Half) (l : List Response) (i : Nat) :
    ({ s with crc := c, resp := l } : State).word i = s.word i := word_congr rfl rfl i

/-- The same for a sequence of words. -/
theorem ports_wordsFrom (s : State) (c : Half) (l : List Response) (p n : Nat) :
    ({ s with crc := c, resp := l } : State).wordsFrom p n = s.wordsFrom p n :=
  wordsFrom_congr (s := s) (t := { s with crc := c, resp := l }) rfl rfl p n

/-- What FR.READW does in Reading neither reads nor writes CRC or RESP. -/
theorem ReadwCase.with_ports {count : Nat} {s t : State} {r : Response} (h : ReadwCase count s r t) (c : Half)
    (l : List Response) :
    ReadwCase count { s with crc := c, resp := l } r { t with crc := c, resp := l } := by
  cases h with
  | closed ho => exact .closed ho
  | ioFailure ho hi => exact .ioFailure ho hi
  | truncated ho hi hl => exact .truncated ho hi hl
  | words ws ho hi hl hw => exact .words ws ho hi hl ((ports_wordsFrom ..).trans hw)

/-- `NextFrame` neither reads nor writes CRC or RESP. -/
theorem NextCase.with_ports {s t : State} {r : Response} (h : NextCase s r t) (c : Half) (l : List Response) :
    NextCase { s with crc := c, resp := l } r { t with crc := c, resp := l } := by
  cases h with
  | closed ho => exact .closed ho
  | ioFailure ho hi => exact .ioFailure ho hi
  | noWordLeft ho hi hl hp => exact .noWordLeft ho hi hl hp
  | cleanEnd ho hi hl hp => exact .cleanEnd ho hi hl hp
  | sentinelFound ho hi hl hw => exact .sentinelFound ho hi hl ((ports_word ..).trans hw)
  | incomplete w0 ho hi hl hw hs hn => exact .incomplete w0 ho hi hl ((ports_word ..).trans hw) hs hn
  | valid w0 ws stored ho hi hl hw hs hws hst hc =>
    exact .valid w0 ws stored ho hi hl ((ports_word ..).trans hw) hs ((ports_wordsFrom ..).trans hws)
      ((ports_word ..).trans hst) hc
  | mismatch w0 ws stored ho hi hl hw hs hws hst hc =>
    exact .mismatch w0 ws stored ho hi hl ((ports_word ..).trans hw) hs ((ports_wordsFrom ..).trans hws)
      ((ports_word ..).trans hst) hc

/-- A run of Frames neither reads nor writes CRC or RESP. -/
theorem FramesRead.with_ports {s u : State} {fs : List (List Byte × Half)} (h : FramesRead s fs u) (c : Half)
    (l : List Response) : FramesRead { s with crc := c, resp := l } fs { u with crc := c, resp := l } := by
  induction h with
  | none s => exact .none _
  | more hc _ ih => exact .more (hc.with_ports c l) ih

end Sys2Proof.Laws
end

