-- ==== Sys2Proof/Laws/Exec.lean ====
section
/-! SUPPORT. What `exec` can do, once per command: an inversion lemma for each reading command in Reading and outside
it (41_frame_reader.md R117), and one for the commands that read no stream. The statements about every command follow
from these by cases. -/

namespace Sys2Proof.Laws

open Sys2Proof.Machine

/-! ### Payload images and exchanged pairs -/

/-- A payload of `n` words has `2*n` bytes (20_memory.md R58). -/
theorem payloadBytes_length (hostBE : Bool) (ws : List Half) : (payloadBytes hostBE ws).length = 2 * ws.length := by
  induction ws with
  | nil => rfl
  | cons w rest ih => cases hostBE <;> simp [payloadBytes, hostBytes, ih] <;> omega

/-- Exchanging pairs keeps the number of bytes. -/
theorem exchangePairs_length (l : List Byte) : (exchangePairs l).length = l.length := by
  fun_induction exchangePairs l <;> simp_all

/-- Exchanging pairs twice changes nothing. -/
theorem exchangePairs_exchangePairs (l : List Byte) : exchangePairs (exchangePairs l) = l := by
  fun_induction exchangePairs l <;> simp_all [exchangePairs]

/-- Where the pair at word index `i` is whole, exchanging pairs exchanges its two bytes. -/
theorem exchangePairs_pair (l : List Byte) (i : Nat) (h : 2 * i + 1 < l.length) :
    (exchangePairs l)[2 * i]? = l[2 * i + 1]? ∧ (exchangePairs l)[2 * i + 1]? = l[2 * i]? := by
  induction i generalizing l with
  | zero =>
    match l, h with
    | a :: b :: rest, _ => simp [exchangePairs]
  | succ i ih =>
    match l, h with
    | a :: b :: rest, h =>
      have := ih rest (by simp at h; omega)
      simpa [exchangePairs, Nat.mul_add] using this

/-- The two bytes of a word in a stream read back as that word in the same declared order (R56). -/
theorem declaredWord_wordBytes (be : Bool) (w : Half) :
    ∃ b0 b1, wordBytes be w = [b0, b1] ∧ declaredWord be b0 b1 = w := by
  cases be
  · refine ⟨_, _, rfl, ?_⟩
    apply BitVec.eq_of_getLsbD_eq
    intro i hi
    interval_cases i <;> simp [declaredWord]
  · refine ⟨_, _, rfl, ?_⟩
    apply BitVec.eq_of_getLsbD_eq
    intro i hi
    interval_cases i <;> simp [declaredWord]

/-! ### Completing and inverting the reading commands -/

/-- A step of `finish` that completes responds with the procedure's answer. -/
theorem finish_eq_next_iff (q : Except Fault (Response × State)) (t : State) :
    finish q = .next t ↔ ∃ v u, q = .ok (v, u) ∧ t = u.respond v := by
  cases q with
  | error f => simp [finish]
  | ok p => obtain ⟨v, u⟩ := p; simp [finish, eq_comm]

/-- FR.READW in Reading completes as its case says. -/
theorem exec_frReadw_of_case {count : Half} {s t : State} {r : Response} (hr : s.rstate = .reading)
    (h : ReadwCase count.toNat s r t) : exec (.frReadw count) s = .next (t.respond r) := by
  simp only [exec, execFrReadw, throughGate_of_reading hr, (readwBody_eq_ok_iff _ s r t).2 h, finish]

/-- FR.NEXT in Reading completes as its case says. -/
theorem exec_frNext_of_case {s t : State} {r : Response} (hr : s.rstate = .reading) (h : NextCase s r t) :
    exec .frNext s = .next (t.respond r) := by
  simp only [exec, execFrNext, throughGate_of_reading hr, (nextFrame_eq_ok_iff s r t).2 h, finish]

/-- FR.ALL in Reading completes with the Frames it reads and the answer that ends it. -/
theorem exec_frAll_of_cases {s u t : State} {fs : List (List Byte × Half)} {r : Response} (hr : s.rstate = .reading)
    (hf : FramesRead s fs u) (h : NextCase u r t) (hn : r.isFrame = false) :
    exec .frAll s = .next (t.respond r) := by
  simp only [exec, execFrAll, throughGate_of_reading hr, allFrames_of_framesRead hf h hn hf.length_le, finish]

/-- Everything FR.READW can have done in Reading. -/
theorem exec_frReadw_cases {count : Half} {s t : State} (hr : s.rstate = .reading)
    (h : exec (.frReadw count) s = .next t) : ∃ r u, ReadwCase count.toNat s r u ∧ t = u.respond r := by
  simp only [exec, execFrReadw, throughGate_of_reading hr] at h
  obtain ⟨v, u, h1, h2⟩ := (finish_eq_next_iff _ t).1 h
  exact ⟨v, u, (readwBody_eq_ok_iff _ s v u).1 h1, h2⟩

/-- Everything FR.NEXT can have done in Reading. -/
theorem exec_frNext_cases {s t : State} (hr : s.rstate = .reading) (h : exec .frNext s = .next t) :
    ∃ r u, NextCase s r u ∧ t = u.respond r := by
  simp only [exec, execFrNext, throughGate_of_reading hr] at h
  obtain ⟨v, u, h1, h2⟩ := (finish_eq_next_iff _ t).1 h
  exact ⟨v, u, (nextFrame_eq_ok_iff s v u).1 h1, h2⟩

/-- Everything FR.ALL can have done in Reading. -/
theorem exec_frAll_cases {s t : State} (hr : s.rstate = .reading) (h : exec .frAll s = .next t) :
    ∃ fs m r u, FramesRead s fs m ∧ NextCase m r u ∧ r.isFrame = false ∧ fs.length ≤ s.frameBound ∧
      t = u.respond r := by
  simp only [exec, execFrAll, throughGate_of_reading hr] at h
  obtain ⟨v, u, h1, h2⟩ := (finish_eq_next_iff _ t).1 h
  obtain ⟨fs, m, hf, hc, hl, hb⟩ := allFrames_eq_ok h1
  exact ⟨fs, m, v, u, hf, hc, hb (le_refl _), hl, h2⟩

/-- Everything a reading command can have done outside Reading: it answered from the gate. -/
theorem exec_read_cases_of_not_reading {i : Instr} {s t : State} (hi : isReadCommand i = true)
    (hr : s.rstate ≠ .reading) (h : exec i s = .next t) : ∃ v, s.readerGate = some v ∧ t = s.respond v := by
  cases i <;> simp only [isReadCommand, Bool.false_eq_true] at hi <;>
  · simp only [exec, execFrReadw, execFrNext, execFrAll] at h
    rcases (throughGate_eq_next_iff _ s t).1 h with ⟨_, h⟩ | ⟨h, _⟩
    · exact h
    · exact absurd h hr

/-- Everything FR.OPEN can have done (R111): one of its three ends. -/
theorem exec_frOpen_cases {be : Bool} {n : Half} {s t : State} (h : exec (.frOpen be n) s = .next t) :
    (s.src = none ∧ t = ((s.beginOpen be n).openError .io).respond (.error 0x80#8 0#8)) ∨
    (∃ bytes, s.src = some bytes ∧ bytes.length % 2 ≠ 0 ∧
      t = ((s.beginOpen be n).openError .format).respond (.error 0x81#8 0#8)) ∨
    (∃ bytes, s.src = some bytes ∧ bytes.length % 2 = 0 ∧
      t = ((s.beginOpen be n).snapshot bytes).respond (.ok (bytes.length / 2))) := by
  simp only [exec, execFrOpen] at h
  cases hs : s.src with
  | none => simp only [hs] at h; cases h; exact .inl ⟨rfl, rfl⟩
  | some bytes =>
    simp only [hs] at h
    by_cases hl : bytes.length % 2 ≠ 0
    · rw [if_pos hl] at h; cases h; exact .inr (.inl ⟨bytes, rfl, hl, rfl⟩)
    · rw [if_neg hl] at h; cases h; exact .inr (.inr ⟨bytes, rfl, by omega, rfl⟩)

/-- What a run of Frames leaves unchanged, and what it moves (R113, R115). -/
theorem FramesRead.fields {s m : State} {fs : List (List Byte × Half)} (h : FramesRead s fs m) :
    m.crc = s.crc ∧ m.npay = s.npay ∧ m.declBE = s.declBE ∧ m.wlen = s.wlen ∧ m.stream = s.stream ∧ m.src = s.src ∧
    m.params = s.params ∧ m.host = s.host ∧ m.resp = s.resp ∧ m.rstate = s.rstate ∧ m.err = s.err ∧
    m.errStored = s.errStored ∧ m.errComputed = s.errComputed ∧ m.fout = s.fout ++ fs.map Prod.fst ∧
    m.cur = s.cur + fs.length * (s.npay.toNat + 1) := by
  induction h with
  | none => simp
  | more hc _ ih =>
    cases hc with
    | valid =>
      obtain ⟨h1, h2, h3, h4, h5, h6, h7, h8, h9, h10, h11, h12, h13, h14, h15⟩ := ih
      refine ⟨h1, h2, h3, h4, h5, h6, h7, h8, h9, h10, h11, h12, h13, ?_, ?_⟩
      · simp [h14]
      · rw [h15]; simp only [List.length_cons]; ring

/-- Each payload of a run of Frames has `2*NPAY` bytes (10_state.md R36). -/
theorem FramesRead.payload_length {s m : State} {fs : List (List Byte × Half)} (h : FramesRead s fs m) :
    ∀ f ∈ fs, f.1.length = 2 * s.npay.toNat := by
  induction h with
  | none => simp
  | more hc _ ih =>
    intro f hf
    cases hc with
    | valid w0 ws stored ho hi hl hw hs hws hst hc =>
      rcases List.mem_cons.1 hf with rfl | hf
      · rw [payloadBytes_length, wordsFrom_length hws]
      · exact ih f hf

/-- A run of Frames writes BUF only as far as a frame reaches (20_memory.md R59). -/
theorem FramesRead.bufWord {s m : State} {fs : List (List Byte × Half)} (h : FramesRead s fs m) {k : Nat}
    (hk : s.npay.toNat + 1 ≤ k) : m.bufWord k = s.bufWord k := by
  induction h with
  | none => rfl
  | more hc _ ih =>
    cases hc with
    | valid w0 ws stored ho hi hl hw hs hws hst hc =>
      rw [ih hk]
      have hl := wordsFrom_length hws
      exact writeBuf_bufWord_of_le _ (ws ++ [_]) (by simp only [List.length_append, List.length_singleton]; omega)

/-- Every command completes in a state whose memories have their form. -/
theorem exec_completes {s : State} (hwf : Memory.wf s = true) (i : Instr) : ∃ t, exec i s = .next t := by
  by_cases hi : isReadCommand i = true
  · by_cases hr : s.rstate = .reading
    · cases i <;> simp only [isReadCommand, Bool.false_eq_true] at hi <;>
        simp only [exec, execFrReadw, execFrNext, execFrAll, throughGate_of_reading hr, finish_eq_next_iff]
      · obtain ⟨r, t, h⟩ := readwBody_completes hwf _; exact ⟨_, r, t, h, rfl⟩
      · obtain ⟨r, t, h⟩ := nextFrame_completes hwf; exact ⟨_, r, t, h, rfl⟩
      · obtain ⟨r, t, h⟩ := allFrames_completes hwf _; exact ⟨_, r, t, h, rfl⟩
    · cases hg : s.readerGate with
      | none => exact absurd ((readerGate_eq_none_iff s).1 hg) hr
      | some v =>
        cases i <;> simp only [isReadCommand, Bool.false_eq_true] at hi <;>
          exact ⟨_, throughGate_of_not_reading hg⟩
  · cases i with
    | frOpen be n =>
      simp only [exec, execFrOpen]
      split
      · exact ⟨_, rfl⟩
      · split <;> exact ⟨_, rfl⟩
    | rdreg r =>
      simp only [exec, execRdreg, illegal]
      split <;> exact ⟨_, rfl⟩
    | crcLoad _ => exact ⟨_, rfl⟩
    | crcInit => exact ⟨_, rfl⟩
    | crcByte _ => exact ⟨_, rfl⟩
    | frClose => exact ⟨_, rfl⟩
    | frReadw _ => exact absurd rfl hi
    | frNext => exact absurd rfl hi
    | frAll => exact absurd rfl hi

/-- The commands that read no stream and open none do one of these things (R96 to R98, R116, R140, R141). -/
theorem exec_other_cases {i : Instr} {s t : State} (hi : isReadCommand i = false) (ho : isOpenCommand i = false)
    (h : exec i s = .next t) :
    (∃ v, t = (s.setCrc v).respond (.ok v.toNat)) ∨ t = { s with hopen := false }.respond (.ok 0) ∨
      (∃ r, t = s.respond r) := by
  cases i with
  | crcLoad v => cases h; exact .inl ⟨_, rfl⟩
  | crcInit => cases h; exact .inl ⟨_, rfl⟩
  | crcByte b => cases h; exact .inl ⟨_, rfl⟩
  | frClose => cases h; exact .inr (.inl rfl)
  | rdreg r =>
    simp only [exec, execRdreg, illegal] at h
    split at h <;> cases h <;> exact .inr (.inr ⟨_, rfl⟩)
  | frOpen _ _ => cases ho
  | frReadw _ => cases hi
  | frNext => cases hi
  | frAll => cases hi

end Sys2Proof.Laws
end

