-- ==== Sys2Proof/Laws/PerInstr.lean ====
section
/-! SUPPORT. Statements made per command: every command's word matches its row of the opcode map
(30_encoding.md R72, R74). -/

namespace Sys2Proof.Laws.MatchesItsRow

open Sys2Proof Sys2Proof.Machine

/-- The position of the command's row in the opcode map (R74). -/
def rowOf : Instr → Nat
  | .crcLoad _ => 0
  | .crcInit => 1
  | .crcByte _ => 2
  | .frOpen _ _ => 3
  | .frReadw _ => 4
  | .frNext => 5
  | .frAll => 6
  | .frClose => 7
  | .rdreg _ => 8

/-- The command's word, under the mask of its row, is the match value of its row (R72). -/
def Statement (i : Instr) : Prop := ∃ row, opcodeRows[rowOf i]? = some row ∧ encode i &&& row.2 = row.1

/-- A 16-bit operand lies under none of the mask's bits. -/
theorem operand16 (v : Half) : v.setWidth 32 &&& 0xFFFF0000#32 = 0#32 := by
  apply BitVec.eq_of_getLsbD_eq
  intro i hi
  interval_cases i <;> simp

/-- An 8-bit operand lies under none of the mask's bits. -/
theorem operand8 (b : Byte) : b.setWidth 32 &&& 0xFFFFFF00#32 = 0#32 := by
  apply BitVec.eq_of_getLsbD_eq
  intro i hi
  interval_cases i <;> simp

/-- The operands of FR.OPEN lie under none of the mask's bits. -/
theorem operandO (n : Half) : n.setWidth 32 &&& 0xFFFE0000#32 = 0#32 := by
  apply BitVec.eq_of_getLsbD_eq
  intro i hi
  interval_cases i <;> simp

theorem crcLoad (v : Half) : Statement (.crcLoad v) :=
  ⟨_, rfl, by show (0x01000000#32 ||| v.setWidth 32) &&& 0xFFFF0000#32 = _; rw [BitVec.and_or_distrib_right, operand16]; rfl⟩

theorem crcInit : Statement .crcInit := ⟨_, rfl, rfl⟩

theorem crcByte (b : Byte) : Statement (.crcByte b) :=
  ⟨_, rfl, by show (0x03000000#32 ||| b.setWidth 32) &&& 0xFFFFFF00#32 = _; rw [BitVec.and_or_distrib_right, operand8]; rfl⟩

theorem frOpen (be : Bool) (n : Half) : Statement (.frOpen be n) :=
  ⟨_, rfl, by
    show (0x10000000#32 ||| beBit be ||| n.setWidth 32) &&& 0xFFFE0000#32 = _
    rw [BitVec.and_or_distrib_right, operandO]; cases be <;> rfl⟩

theorem frReadw (c : Half) : Statement (.frReadw c) :=
  ⟨_, rfl, by show (0x11000000#32 ||| c.setWidth 32) &&& 0xFFFF0000#32 = _; rw [BitVec.and_or_distrib_right, operand16]; rfl⟩

theorem frNext : Statement .frNext := ⟨_, rfl, rfl⟩

theorem frAll : Statement .frAll := ⟨_, rfl, rfl⟩

theorem frClose : Statement .frClose := ⟨_, rfl, rfl⟩

theorem rdreg (r : Byte) : Statement (.rdreg r) :=
  ⟨_, rfl, by show (0x20000000#32 ||| r.setWidth 32) &&& 0xFFFFFF00#32 = _; rw [BitVec.and_or_distrib_right, operand8]; rfl⟩

end Sys2Proof.Laws.MatchesItsRow
end

