-- ==== Sys2Proof/Tests/Slice0.lean ====
section
/-! SUPPORT. The model's own tests. Expected values are the spec's (95_test_vectors.md and the rules named), none is the
model's own answer. Each test is one step on a small state; the witness theorems show that the hypotheses of each
statement of Certificates/Slice0/Obligations.lean can be met together. -/

-- The many small kernel evaluations of this file run one after another: each on a thread of its own would exceed the
-- memory limit the check runs under.
set_option Elab.async false

namespace Sys2Proof.Tests

open Sys2Proof Sys2Proof.Machine Sys2Proof.Safety

/-! ### Helpers -/

/-- A field of the next state, none where there is none. -/
def after {α : Type} (o : Host.Outcome State Fault Refusal) (f : State → α) : Option α :=
  match o with
  | .next t => some (f t)
  | .fault _ => none
  | .refused _ => none

/-- Where a field of the next state has a value, there is a next state. -/
theorem exists_of_after {α : Type} {o : Host.Outcome State Fault Refusal} {f : State → α} {v : α}
    (h : after o f = some v) : ∃ t, o = .next t ∧ f t = v := by
  cases o with
  | next t => exact ⟨t, rfl, by simpa [after] using h⟩
  | fault _ => simp [after] at h
  | refused _ => simp [after] at h

/-- A pass over `bytes` at word `cur`, opened with `be` and `n` on a host of order `hostBE`. -/
def pass (hostBE be : Bool) (n : Half) (bytes : List Byte) (cur : Nat) : State :=
  { State.resetWith { hostBE := hostBE, eofPolicy := .formatError } with
    rstate := .reading, hopen := true, declBE := be, npay := n, stream := bytes, wlen := bytes.length / 2, cur := cur }

/-- Stream F1 (95_test_vectors.md section 2.3). -/
def F1 : List Byte :=
  [0x01#8, 0x03#8, 0x00#8, 0x00#8, 0xF1#8, 0xD8#8, 0x34#8, 0x12#8, 0xCD#8, 0xAB#8, 0xBB#8, 0x3E#8, 0xA5#8, 0xA5#8]

/-- Stream F1B (section 2.3). -/
def F1B : List Byte :=
  [0x03#8, 0x01#8, 0x00#8, 0x00#8, 0xD8#8, 0xF1#8, 0x12#8, 0x34#8, 0xAB#8, 0xCD#8, 0x3E#8, 0xBB#8, 0xA5#8, 0xA5#8]

/-- The first payload of F1. -/
def payload1 : List Byte := [0x01#8, 0x03#8, 0x00#8, 0x00#8]

/-- The second payload of F1. -/
def payload2 : List Byte := [0x34#8, 0x12#8, 0xCD#8, 0xAB#8]

/-! ### Well-formedness: the one check refuses an ill-formed term (R75(c)) -/

theorem test_wf_refuses_register_10 : Instr.wf (.rdreg 10#8) = false := by decide
theorem test_wf_refuses_register_255 : Instr.wf (.rdreg 255#8) = false := by decide
theorem test_wf_accepts_register_9 : Instr.wf (.rdreg 9#8) = true := by decide

/-! ### Decoding, words written out from R71 and R74: op, z, be, imm16 -/

theorem test_decode_crcLoad : decode 0b00000001_0000000_0_0011000010111010#32 = .ok (.crcLoad 0x30BA#16) := by decide
theorem test_decode_crcInit : decode 0b00000010_0000000_0_0000000000000000#32 = .ok .crcInit := by decide
theorem test_decode_crcByte : decode 0b00000011_0000000_0_0000000011111111#32 = .ok (.crcByte 0xFF#8) := by decide
theorem test_decode_frOpen_be : decode 0b00010000_0000000_1_0000000000000010#32 = .ok (.frOpen true 2#16) := by decide
theorem test_decode_frOpen_le : decode 0b00010000_0000000_0_1111111111111111#32 = .ok (.frOpen false 0xFFFF#16) := by
  decide
theorem test_decode_frReadw : decode 0b00010001_0000000_0_0000000000000011#32 = .ok (.frReadw 3#16) := by decide
theorem test_decode_frNext : decode 0b00010010_0000000_0_0000000000000000#32 = .ok .frNext := by decide
theorem test_decode_frAll : decode 0b00010011_0000000_0_0000000000000000#32 = .ok .frAll := by decide
theorem test_decode_frClose : decode 0b00010100_0000000_0_0000000000000000#32 = .ok .frClose := by decide
theorem test_decode_rdreg : decode 0b00100000_0000000_0_0000000000001001#32 = .ok (.rdreg 9#8) := by decide

/-- The ten illegal words of 95_test_vectors.md section 2.4. -/
theorem test_decode_illegal :
    [0x00000000#32, 0xFFFFFFFF#32, 0x04000000#32, 0x15000000#32, 0x02000001#32, 0x03000100#32, 0x01010000#32,
      0x10020002#32, 0x12010000#32, 0x2000000A#32].map (fun w => (decode w).toOption) = List.replicate 10 none := by
  decide

/-- The table's numbering: RDREG 9's row word decodes, a word of no row does not. -/
theorem test_decodeTableWord :
    decodeTableWord 32 0x20000009 = some (.rdreg 9#8) ∧ decodeTableWord 32 0x15000000 = none := by decide

/-! ### The CRC16 Engine (V-T, V-C, P1) -/

theorem test_table_spots :
    [0x00#8, 0x01#8, 0x02#8, 0x04#8, 0x08#8, 0x10#8, 0x20#8, 0x40#8, 0x80#8, 0xA5#8, 0xCE#8, 0xFF#8].map tableAt =
      [0x0000#16, 0xC0C1#16, 0xC181#16, 0xC301#16, 0xC601#16, 0xCC01#16, 0xD801#16, 0xF001#16, 0xA001#16, 0x7BC0#16,
        0x9481#16, 0x4040#16] := by decide +kernel

/-- V-C11: the checksum of "123456789". -/
theorem test_checksum_catalogue :
    checksum [0x31#8, 0x32#8, 0x33#8, 0x34#8, 0x35#8, 0x36#8, 0x37#8, 0x38#8, 0x39#8] = 0x4B37#16 := by decide +kernel

/-- V-C25: a payload whose checksum is the sentinel's value. -/
theorem test_checksum_sentinel_value : checksum [0x70#8, 0x32#8] = 0xA5A5#16 := by decide +kernel

theorem test_stepBits : stepBits 0xFFFF#16 0x31#8 = 0x947E#16 := by decide +kernel

/-- P6 step 7. -/
theorem test_crcLoad :
    after (exec (.crcLoad 0x30BA#16) State.reset) (fun t => (t.crc, t.fcrc, t.resp)) =
      some (0x30BA#16, 0xFFFF#16, [.ok 0x30BA]) := by decide

/-- R97's example. -/
theorem test_crcInit :
    after (exec .crcInit { State.reset with crc := 0x4B37#16 }) (fun t => (t.crc, t.resp)) =
      some (0xFFFF#16, [.ok 0xFFFF]) := by decide

/-- R98's example. -/
theorem test_crcByte :
    after (exec (.crcByte 0x31#8) State.reset) (fun t => (t.crc, t.resp)) = some (0x947E#16, [.ok 0x947E]) := by
  decide +kernel

/-- V-C8: the zero remainder absorbs a zero byte. -/
theorem test_crcByte_zero :
    after (exec (.crcByte 0x00#8) { State.reset with crc := 0#16 }) (fun t => t.crc) = some 0#16 := by decide +kernel

/-! ### Words (V-W1 to V-W7) -/

theorem test_words :
    [(false, false), (false, true), (true, false), (true, true)].map
        (fun p => (wordValue (pass p.1 p.2 0#16 [] 0) 0x01#8 0x03#8,
          hostBytes p.1 (wordValue (pass p.1 p.2 0#16 [] 0) 0x01#8 0x03#8))) =
      [(0x0301#16, [0x01#8, 0x03#8]), (0x0103#16, [0x03#8, 0x01#8]), (0x0301#16, [0x03#8, 0x01#8]),
        (0x0103#16, [0x01#8, 0x03#8])] := by decide

/-! ### The Frame Reader -/

/-- R111's example. -/
theorem test_frOpen :
    after (exec (.frOpen false 2#16) { State.reset with src := some F1 })
        (fun t => (t.resp, t.rstate, t.cfg, t.npay, t.cur, t.wlen)) =
      some ([.ok 7], .reading, 0x0008#16, 2#16, 0, 7) := by decide +kernel

/-- V-F9: an odd number of bytes. -/
theorem test_frOpen_odd :
    after (exec (.frOpen false 2#16) { State.reset with src := some (F1.take 13) })
        (fun t => (t.resp, t.rstate, t.err, t.npay, t.stream)) =
      some ([.error 0x81#8 0#8], .idle, 0x0081#16, 2#16, []) := by decide +kernel

/-- V-R1, its first command. -/
theorem test_frReadw :
    after (exec (.frReadw 3#16) (pass false false 2#16 F1 0)) (fun t => (t.resp, t.cur, t.buf)) =
      some ([.words [0x0301#16, 0x0000#16, 0xD8F1#16]], 3, [0x0301#16, 0x0000#16, 0xD8F1#16]) := by decide +kernel

/-- V-R3: one word too many. -/
theorem test_frReadw_truncated :
    after (exec (.frReadw 8#16) (pass false false 2#16 F1 0)) (fun t => (t.resp, t.cur, t.rstate, t.err)) =
      some ([.error 0x81#8 1#8], 0, .failed, 0x0181#16) := by decide +kernel

/-- V-F1's first frame, and the same frame big-endian (V-F2). -/
theorem test_frNext_valid :
    [pass false false 2#16 F1 0, pass false true 2#16 F1B 0].map
        (fun s => after (exec .frNext s) (fun t => (t.resp, t.cur, t.fout))) =
      List.replicate 2 (some ([.frame payload1 0xD8F1#16], 3, [payload1])) := by decide +kernel

/-- V-F3: the wrong declared order. -/
theorem test_frNext_mismatch :
    after (exec .frNext (pass false false 2#16 F1B 0)) (fun t => (t.resp, t.cur, t.fout, t.rstate, t.err)) =
      some ([.integrityError 0xF1D8#16 0xA051#16], 3, [], .failed, 0x0082#16) := by decide +kernel

/-- V-F1 with FR.ALL. -/
theorem test_frAll :
    after (exec .frAll (pass false false 2#16 F1 0)) (fun t => (t.resp, t.cur, t.fout, t.rstate, t.hopen)) =
      some ([.endOfStream], 7, [payload1, payload2], .terminated, false) := by decide +kernel

/-- V-F20: the second draw is a failure. -/
theorem test_frAll_ioFailure :
    after (exec .frAll { pass false false 2#16 F1 0 with ioDraws := [false, true] })
        (fun t => (t.resp, t.cur, t.fout, t.rstate, t.err)) =
      some ([.error 0x80#8 1#8], 3, [payload1], .failed, 0x0180#16) := by decide +kernel

/-- V-F8e: no sentinel under EOF_POLICY = end_of_stream. -/
theorem test_frAll_endOfStream :
    after (exec .frAll { pass false false 2#16 (F1.take 12) 0 with
          params := { hostBE := false, eofPolicy := .endOfStream } }) (fun t => (t.resp, t.cur, t.rstate, t.err)) =
      some ([.endOfStream], 6, .terminated, 0#16) := by decide +kernel

/-- V-F21, a big-endian host. -/
theorem test_frNext_bigEndianHost :
    after (exec .frNext (pass true false 2#16 [0x01#8, 0x03#8, 0x00#8, 0x00#8, 0x51#8, 0xA0#8] 0))
        (fun t => (t.resp, t.cfg)) =
      some ([.frame [0x03#8, 0x01#8, 0x00#8, 0x00#8] 0xA051#16], 0x000E#16) := by decide +kernel

/-- R116's example. -/
theorem test_frClose :
    after (exec .frClose (pass false false 2#16 F1 3)) (fun t => (t.resp, t.cfg, t.rstate, t.cur)) =
      some ([.ok 0], 0x0000#16, .reading, 3) := by decide +kernel

/-- P4 step 6: HOPEN 0, SWAP 1, HOST_BE 0, DECL_BE 1. -/
theorem test_rdreg_cfg :
    after (exec (.rdreg 3#8) { pass false true 2#16 F1B 7 with rstate := .terminated, hopen := false })
        (fun t => t.resp) = some [.ok 5] := by decide +kernel

/-- R141: a number above 9 answers as an illegal command. -/
theorem test_rdreg_illegal : after (exec (.rdreg 10#8) State.reset) (fun t => t.resp) = some [.illegalCommand] := by
  decide

/-! ### Steps -/

/-- The placed word is the next thing that runs. -/
theorem test_withFetchWord :
    after (step (State.reset.withFetchWord 32 0x12000000)) (fun t => (t.resp, t.host, t.err)) =
      some ([.error 0x80#8 2#8], [], 0#16) := by decide

/-- V-F: BIND changes SRC alone and answers nothing. -/
theorem test_bind :
    after (step { State.reset with host := [.bind (some [0x01#8])] }) (fun t => (t.src, t.stream, t.resp)) =
      some (some [0x01#8], [], []) := by decide

/-- R180: RESET abandons a pass without a response. -/
theorem test_reset :
    after (step { pass false true 2#16 F1 3 with host := [.reset] }) (fun t => (t.rstate, t.resp, t.cur, t.cfg)) =
      some (.idle, [], 0, 0#16) := by decide

/-! ### Witnesses: the hypotheses of the statements can be met together -/

theorem witness_DecodeAndEncodeAgree :
    (Instr.rdreg 9#8).wf = true ∧ decode 0x20000009#32 = .ok (.rdreg 9#8) := by decide

theorem witness_IllegalWordsOnlyAnswer :
    { State.reset with host := [.command 0x2000000A#32] }.host = .command 0x2000000A#32 :: [] ∧
      ¬ legalWord 0x2000000A#32 ∧ legalWord 0x20000009#32 := by decide +kernel

theorem witness_StepRunsTheDecodedCommand :
    { State.reset with host := [.command 0x12000000#32] }.host = .command 0x12000000#32 :: [] ∧
      decode 0x12000000#32 = .ok .frNext ∧ Instr.frNext.wf = true := by decide

theorem witness_WaitsForTheNextAction : State.reset.host = [] := by decide

theorem witness_ResetPutsEveryRegister : { pass false true 2#16 F1 3 with host := [.reset] }.host = .reset :: [] := by
  decide

theorem witness_BindSetsTheSourceAlone :
    { State.reset with host := [.bind none] }.host = .bind none :: [] := by decide

theorem witness_OneChangedByteChangesTheRemainder : (0x34#8 : Byte) ≠ 0x35#8 := by decide

theorem witness_CrcLoadEffect :
    0x01010000#32 &&& 0xFF000000#32 = 0x01000000#32 ∧ 0x01010000#32 &&& 0x00FF0000#32 ≠ 0#32 := by decide

theorem witness_CrcInitEffect :
    0x02000001#32 &&& 0xFF000000#32 = 0x02000000#32 ∧ 0x02000001#32 &&& 0x00FFFFFF#32 ≠ 0#32 := by decide

theorem witness_CrcByteEffect :
    0x03000100#32 &&& 0xFF000000#32 = 0x03000000#32 ∧ 0x03000100#32 &&& 0x00FFFF00#32 ≠ 0#32 := by decide

theorem witness_OpenEffect_absent : State.reset.src = none := by decide

theorem witness_OpenEffect_odd :
    { State.reset with src := some [0x01#8] }.src = some [0x01#8] ∧ [0x01#8].length % 2 = 1 := by decide

theorem witness_OpenEffect_even :
    { State.reset with src := some F1 }.src = some F1 ∧ F1.length % 2 = 0 ∧ ([] : List Byte).length % 2 = 0 := by
  decide

theorem witness_CloseEffect :
    isReadCommand .frNext = true ∧ { pass false false 2#16 F1 3 with hopen := false }.rstate = .reading ∧
      { pass false false 2#16 F1 3 with hopen := false }.hopen = false := by decide

theorem witness_RdregAnswersTheRegister : (9#8).toNat < 10 := by decide

theorem witness_RdregOfNoRegisterIsIllegal :
    { State.reset with host := [.command 0x2000000A#32] }.host = .command 0x2000000A#32 :: [] ∧
      0x2000000A#32 &&& 0xFF000000#32 = 0x20000000#32 ∧ 10 ≤ (0x2000000A#32 &&& 0xFF#32).toNat ∧
      0x20000100#32 &&& 0xFF000000#32 = 0x20000000#32 ∧ 0x20000100#32 &&& 0x00FFFF00#32 ≠ 0#32 ∧
      10 ≤ (10#8).toNat := by decide

theorem witness_WordFollowsTheDeclaredOrder : (pass false true 2#16 F1 0).hasWordBytes 6 0xA5#8 0xA5#8 := by decide

theorem witness_PayloadIsTheStreamBytes :
    (pass false true 2#16 F1B 0).wordsFrom 0 2 = some [0x0301#16, 0x0000#16] := by decide +kernel

theorem witness_GateAnswersOutsideReading :
    isReadCommand .frAll = true ∧ State.reset.rstate = .idle ∧
      { State.reset with rstate := .terminated }.rstate = .terminated ∧
      { State.reset with rstate := .failed, err := 0x0082#16 }.err &&& 0xFF#16 = 0x82#16 ∧
      { State.reset with rstate := .failed, err := 0x0181#16 }.err &&& 0xFF#16 ≠ 0x82#16 := by decide

/-- FR.READW of all the words left, and of none. -/
theorem witness_ReadwReadsTheWords :
    let s := pass false false 2#16 F1 3
    Memory.wf s = true ∧ s.rstate = .reading ∧ s.hopen = true ∧ s.ioFail = false ∧ (4#16).toNat ≤ s.wlen - s.cur ∧
      (0#16).toNat ≤ s.wlen - s.cur := by decide

theorem witness_ReadwFailures :
    let s := pass false false 2#16 F1 3
    s.rstate = .reading ∧ s.hopen = true ∧ ({ s with ioDraws := [true] } : State).ioFail = true ∧ s.ioFail = false ∧
      s.wlen - s.cur < (5#16).toNat := by decide

theorem witness_NextDeliversAValidFrame :
    let s := pass false true 2#16 F1B 0
    Memory.wf s = true ∧ s.rstate = .reading ∧ s.hopen = true ∧ s.ioFail = false ∧
      s.npay.toNat + 1 ≤ s.wlen - s.cur ∧ s.hasWordBytes s.cur 0x03#8 0x01#8 ∧
      declaredWord s.declBE 0x03#8 0x01#8 ≠ 0xA5A5#16 ∧ s.hasWordBytes (s.cur + s.npay.toNat) 0xD8#8 0xF1#8 ∧
      checksum s.frameImage = declaredWord s.declBE 0xD8#8 0xF1#8 := by decide +kernel

/-- The boundary `NPAY = 0`: a lone checksum word 0xFFFF (V-F16), with no word after it. -/
theorem witness_NextDeliversAValidFrame_empty :
    let s := pass false false 0#16 [0xFF#8, 0xFF#8] 0
    Memory.wf s = true ∧ s.rstate = .reading ∧ s.hopen = true ∧ s.ioFail = false ∧
      s.npay.toNat + 1 ≤ s.wlen - s.cur ∧ s.hasWordBytes s.cur 0xFF#8 0xFF#8 ∧
      declaredWord s.declBE 0xFF#8 0xFF#8 ≠ 0xA5A5#16 ∧ s.hasWordBytes (s.cur + s.npay.toNat) 0xFF#8 0xFF#8 ∧
      checksum s.frameImage = declaredWord s.declBE 0xFF#8 0xFF#8 := by decide +kernel

theorem witness_NextReportsAMismatch :
    let s := pass false false 2#16 F1B 0
    Memory.wf s = true ∧ s.rstate = .reading ∧ s.hopen = true ∧ s.ioFail = false ∧
      s.npay.toNat + 1 ≤ s.wlen - s.cur ∧ s.hasWordBytes s.cur 0x03#8 0x01#8 ∧
      declaredWord s.declBE 0x03#8 0x01#8 ≠ 0xA5A5#16 ∧ s.hasWordBytes (s.cur + s.npay.toNat) 0xD8#8 0xF1#8 ∧
      checksum s.frameImage ≠ declaredWord s.declBE 0xD8#8 0xF1#8 := by decide +kernel

/-- The last word of the stream is the sentinel, and a frame would not fit (R114(a)). -/
theorem witness_SentinelEndsThePass :
    let s := pass false false 2#16 F1 6
    s.rstate = .reading ∧ s.hopen = true ∧ s.ioFail = false ∧ s.cur < s.wlen ∧
      s.hasWordBytes s.cur 0xA5#8 0xA5#8 := by decide

theorem witness_NextFrameEndings_ioFailure :
    let s := { pass false false 2#16 F1 0 with ioDraws := [true] }
    s.rstate = .reading ∧ s.hopen = true ∧ s.ioFail = true := by decide

theorem witness_NextFrameEndings_noWordLeft :
    let s := pass false false 2#16 (F1.take 12) 6
    let u : State := { s with params := { hostBE := false, eofPolicy := .endOfStream } }
    s.rstate = .reading ∧ s.hopen = true ∧ s.ioFail = false ∧ s.wlen ≤ s.cur ∧ s.params.eofPolicy = .formatError ∧
      u.wlen ≤ u.cur ∧ u.params.eofPolicy = .endOfStream := by decide

/-- Exactly `NPAY` words are left (R114(c)). -/
theorem witness_NextFrameEndings_incomplete :
    let s := pass false false 2#16 (F1.take 10) 3
    s.rstate = .reading ∧ s.hopen = true ∧ s.ioFail = false ∧ s.cur < s.wlen ∧
      s.hasWordBytes s.cur 0x34#8 0x12#8 ∧ declaredWord s.declBE 0x34#8 0x12#8 ≠ 0xA5A5#16 ∧
      s.wlen - s.cur < s.npay.toNat + 1 := by decide

theorem witness_NextErrorsArePrecise :
    (pass false false 2#16 F1B 0).rstate = .reading ∧
      ∃ t, exec .frNext (pass false false 2#16 F1B 0) = .next t ∧ t.rstate = .failed :=
  ⟨rfl, exists_of_after (f := State.rstate) (by decide +kernel)⟩

/-- V-F7: the format error after one frame. -/
theorem witness_AllErrorsArePrecise_format :
    (pass false false 2#16 (F1.take 10) 0).rstate = .reading ∧
      ∃ t, exec .frAll (pass false false 2#16 (F1.take 10) 0) = .next t ∧
        (t.rstate, t.errKind, t.fout, t.cur) = (.failed, 0x81#8, [payload1], 3) :=
  ⟨rfl, exists_of_after (f := fun t => (t.rstate, t.errKind, t.fout, t.cur)) (by decide +kernel)⟩

/-- V-F5: the integrity error after one frame. -/
theorem witness_AllErrorsArePrecise_integrity :
    (pass false false 2#16 (F1.set 6 0x35#8) 0).rstate = .reading ∧
      ∃ t, exec .frAll (pass false false 2#16 (F1.set 6 0x35#8) 0) = .next t ∧
        ((t.rstate, t.errKind, t.fout), t.cur, t.errStored, t.errComputed) =
          ((.failed, 0x82#8, [payload1]), 6, 0x3EBB#16, 0xC2BA#16) :=
  ⟨rfl, exists_of_after (f := fun t => ((t.rstate, t.errKind, t.fout), t.cur, t.errStored, t.errComputed))
    (by decide +kernel)⟩

theorem witness_AllIsRepeatedNext :
    Memory.wf (pass false false 2#16 F1 0) = true ∧ (pass false false 2#16 F1 0).rstate = .reading := by decide

/-- The two frames of F1, the sentinel, and bytes after it (V-F13); the list holds the three draws that are consulted, so
that no draw past its end is. -/
theorem witness_RoundTrip :
    let s := { State.reset with
      src := some (F1 ++ [0x01#8, 0x02#8, 0x03#8, 0x04#8]), ioDraws := [false, false, false] }
    let frames : List (List Half) := [[0x0301#16, 0x0000#16], [0x1234#16, 0xABCD#16]]
    (∀ f ∈ frames, f.length = (2#16).toNat ∧ f.head? ≠ some 0xA5A5#16) ∧
      ([0x01#8, 0x02#8, 0x03#8, 0x04#8] : List Byte).length % 2 = 0 ∧ (∀ d ∈ s.ioDraws, d = false) ∧
      s.src = some (wordsBytes false (streamWords s.params.hostBE frames) ++ [0x01#8, 0x02#8, 0x03#8, 0x04#8]) := by
  decide +kernel

theorem witness_ByteOrderIsInvisible : isReadCommand .frNext = true := by decide

/-- A valid frame whose first word is 0xA5A4, one byte away from the sentinel (its checksum by R91 is 0x0BBB, computed
outside Lean). -/
def nearSentinel : List Byte := [0xA4#8, 0xA5#8, 0xBB#8, 0x0B#8]

theorem witness_OneChangedByteIsDetected_mismatch :
    let s := pass false false 2#16 F1 0
    (∃ t, exec .frNext s = .next t ∧ t.resp = s.resp ++ [.frame payload1 0xD8F1#16]) ∧ 2 * s.cur ≤ 5 ∧
      5 < 2 * (s.cur + s.npay.toNat + 1) ∧ s.streamByte 5 ≠ some 0x58#8 ∧
      ({ s with stream := s.stream.set 5 0x58#8 } : State).word s.cur ≠ some 0xA5A5#16 :=
  ⟨exists_of_after (f := State.resp) (by decide +kernel), by decide, by decide, by decide, by decide +kernel⟩

theorem witness_OneChangedByteIsDetected_sentinel :
    let s := pass false false 1#16 nearSentinel 0
    (∃ t, exec .frNext s = .next t ∧ t.resp = s.resp ++ [.frame [0xA4#8, 0xA5#8] 0x0BBB#16]) ∧ 2 * s.cur ≤ 0 ∧
      0 < 2 * (s.cur + s.npay.toNat + 1) ∧ s.streamByte 0 ≠ some 0xA5#8 ∧
      ({ s with stream := s.stream.set 0 0xA5#8 } : State).word s.cur = some 0xA5A5#16 :=
  ⟨exists_of_after (f := State.resp) (by decide +kernel), by decide, by decide, by decide, by decide +kernel⟩

theorem witness_EveryCommandAnswersOnce : ∃ t, exec .frNext (pass false false 2#16 F1 0) = .next t ∧ t.cur = 3 :=
  exists_of_after (f := State.cur) (by decide +kernel)

/-- P5 steps 4 and 5. -/
theorem witness_CrcAndFcrcAreIndependent :
    isReaderCommand .frNext = true ∧ isCrcCommand (.crcByte 1#8) = true ∧
      (∃ t, exec (.crcByte 1#8) (pass false false 2#16 F1 0) = .next t ∧ t.crc = 0x807E#16) ∧
      (∃ u, exec .frNext (pass false false 2#16 F1 0) = .next u ∧ u.fcrc = 0xD8F1#16) :=
  ⟨rfl, rfl, exists_of_after (f := State.crc) (by decide +kernel),
    exists_of_after (f := State.fcrc) (by decide +kernel)⟩

theorem witness_ReadingCommandsFrame :
    isReadCommand .frNext = true ∧ isReadCommand (.frReadw 3#16) = true ∧
      (∃ t, exec (.frReadw 3#16) (pass false false 2#16 F1 0) = .next t ∧ t.errKind ≠ 0x82#8 ∧ 3 ≤ 3) :=
  ⟨rfl, rfl, by
    obtain ⟨t, h, he⟩ := exists_of_after (o := exec (.frReadw 3#16) (pass false false 2#16 F1 0))
      (f := State.errKind) (v := 0#8) (by decide +kernel)
    exact ⟨t, h, by rw [he]; decide, by decide⟩⟩

theorem witness_OnlyValidatedFramesAreEmitted_all :
    ∃ t, exec .frAll (pass false false 2#16 F1 0) = .next t ∧ t.fout = [payload1, payload2] :=
  exists_of_after (f := State.fout) (by decide +kernel)

theorem witness_OnlyValidatedFramesAreEmitted_next :
    ∃ t, exec .frNext (pass false false 2#16 F1 3) = .next t ∧ t.fout = [payload2] :=
  exists_of_after (f := State.fout) (by decide +kernel)

/-- The second frame of F1 is valid with its payload. -/
theorem witness_ValidFrame : (pass false false 2#16 F1 0).ValidFrame 1 payload2 :=
  ⟨by decide +kernel, by decide, ⟨0x34#8, 0x12#8, by decide, by decide⟩,
    ⟨0xBB#8, 0x3E#8, by decide, by decide +kernel⟩⟩

theorem witness_ReadPassTransitions :
    isOpenCommand (.frOpen true 2#16) = true ∧ isOpenCommand .frNext = false ∧ isReadCommand .frClose = false ∧
      State.reset.rstate ≠ .reading ∧ (pass false false 2#16 F1 0).rstate = .reading ∧
      ∃ t, exec .frAll (pass false false 2#16 F1 0) = .next t ∧ t.rstate = .terminated :=
  ⟨rfl, rfl, rfl, by decide, rfl, exists_of_after (f := State.rstate) (by decide +kernel)⟩

theorem witness_TerminatedAndFailedAbsorb :
    ∃ t, exec .frNext { pass false false 2#16 F1 7 with rstate := .terminated, hopen := false } = .next t ∧
      t.resp = [.endOfStream] :=
  exists_of_after (f := State.resp) (by decide +kernel)

theorem witness_CursorNeverGoesBack :
    isOpenCommand .frNext = false ∧ (pass false false 2#16 F1 0).cur ≤ (pass false false 2#16 F1 0).wlen ∧
      isReadCommand .crcInit = false := by decide

theorem witness_TracesOnlyGrow :
    ∃ t, step { pass false false 2#16 F1 0 with host := [.command 0x12000000#32] } = .next t ∧ t.fout = [payload1] :=
  exists_of_after (f := State.fout) (by decide +kernel)

/-- The state after the failing FR.NEXT of V-F3 meets the invariants, R39(h) among them. -/
theorem witness_StepKeepsTheInvariants :
    Invariants { pass false false 2#16 F1B 3 with
      rstate := .failed, hopen := false, err := 0x0082#16, errStored := 0xF1D8#16, errComputed := 0xA051#16,
      fcrc := 0xA051#16 } := by
  constructor <;> decide +kernel

/-- An open pass meets the invariants. -/
theorem witness_NoRunStops : Invariants (pass false false 2#16 F1 0) := by constructor <;> decide +kernel

end Sys2Proof.Tests
end

/-! # What a command and a step can do

One inversion of `exec` and one of `step`, and the facts about the reading procedures that the statements of
10_state.md share. -/

namespace Sys2Proof.Proofs

open Sys2Proof.Machine Sys2Proof.Laws

/-- The ways a command can complete: its answer, and the state before that answer is appended to RESP. -/
inductive ExecCase (s : State) : Instr → Response → State → Prop where
  | gate {i : Instr} {r : Response} : isReadCommand i = true → s.readerGate = some r → ExecCase s i r s
  | readw {count : Half} {r : Response} {u : State} : s.rstate = .reading → ReadwCase count.toNat s r u →
      ExecCase s (.frReadw count) r u
  | next {r : Response} {u : State} : s.rstate = .reading → NextCase s r u → ExecCase s .frNext r u
  | all {fs : List (List Byte × Half)} {m u : State} {r : Response} : s.rstate = .reading → FramesRead s fs m →
      NextCase m r u → r.isFrame = false → ExecCase s .frAll r u
  | openAbsent (be : Bool) (n : Half) : s.src = none →
      ExecCase s (.frOpen be n) (.error 0x80#8 0#8) ((s.beginOpen be n).openError .io)
  | openOdd (be : Bool) (n : Half) {bytes : List Byte} : s.src = some bytes → bytes.length % 2 ≠ 0 →
      ExecCase s (.frOpen be n) (.error 0x81#8 0#8) ((s.beginOpen be n).openError .format)
  | opens (be : Bool) (n : Half) {bytes : List Byte} : s.src = some bytes → bytes.length % 2 = 0 →
      ExecCase s (.frOpen be n) (.ok (bytes.length / 2)) ((s.beginOpen be n).snapshot bytes)
  | crc {i : Instr} (v : Half) : isReadCommand i = false → isOpenCommand i = false →
      ExecCase s i (.ok v.toNat) (s.setCrc v)
  | close {i : Instr} : isReadCommand i = false → isOpenCommand i = false →
      ExecCase s i (.ok 0) { s with hopen := false }
  | answer {i : Instr} (r : Response) : isReadCommand i = false → isOpenCommand i = false → ExecCase s i r s

/-- A reading command that completes did so in one of these ways. -/
theorem exec_read_cases {i : Instr} {s t : State} (hi : isReadCommand i = true) (h : exec i s = .next t) :
    ∃ r u, ExecCase s i r u ∧ t = u.respond r := by
  by_cases hr : s.rstate = .reading
  · cases i with
    | frReadw count => obtain ⟨r, u, hc, rfl⟩ := exec_frReadw_cases hr h; exact ⟨r, u, .readw hr hc, rfl⟩
    | frNext => obtain ⟨r, u, hc, rfl⟩ := exec_frNext_cases hr h; exact ⟨r, u, .next hr hc, rfl⟩
    | frAll =>
      obtain ⟨fs, m, r, u, hf, hc, hn, -, rfl⟩ := exec_frAll_cases hr h
      exact ⟨r, u, .all hr hf hc hn, rfl⟩
    | _ => cases hi
  · obtain ⟨r, hg, rfl⟩ := exec_read_cases_of_not_reading hi hr h
    exact ⟨r, s, .gate hi hg, rfl⟩

/-- Every command that completes did so in one of these ways. -/
theorem exec_cases {i : Instr} {s t : State} (h : exec i s = .next t) :
    ∃ r u, ExecCase s i r u ∧ t = u.respond r := by
  cases hi : isReadCommand i with
  | true => exact exec_read_cases hi h
  | false =>
    cases ho : isOpenCommand i with
    | true =>
      cases i with
      | frOpen be n =>
        rcases exec_frOpen_cases h with ⟨hs, rfl⟩ | ⟨bytes, hs, ho, rfl⟩ | ⟨bytes, hs, he, rfl⟩
        · exact ⟨_, _, .openAbsent be n hs, rfl⟩
        · exact ⟨_, _, .openOdd be n hs ho, rfl⟩
        · exact ⟨_, _, .opens be n hs he, rfl⟩
      | _ => cases ho
    | false =>
      rcases exec_other_cases hi ho h with ⟨v, rfl⟩ | rfl | ⟨r, rfl⟩
      · exact ⟨_, _, .crc v hi ho, rfl⟩
      · exact ⟨_, _, .close hi ho, rfl⟩
      · exact ⟨_, _, .answer r hi ho, rfl⟩

/-- The ways a step can answer a next state (00_scope.md R10, 70_reset_and_hazards.md R186). -/
inductive StepCase (s : State) : State → Prop where
  | wait : s.host = [] → StepCase s s
  | reset {rest : List HostAction} : s.host = .reset :: rest → StepCase s { s with host := rest }.applyReset
  | bind {rest : List HostAction} {src : Option (List Byte)} : s.host = .bind src :: rest →
      StepCase s { s with host := rest, src := src }
  | illegal {rest : List HostAction} {cmd : CmdWord} {e : Illegal} : s.host = .command cmd :: rest →
      decode cmd = .error e → StepCase s ({ s with host := rest }.respond .illegalCommand)
  | command {rest : List HostAction} {cmd : CmdWord} {i : Instr} {t : State} : s.host = .command cmd :: rest →
      decode cmd = .ok i → exec i { s with host := rest } = .next t → StepCase s t

/-- Every step that answers a next state did one of these things. -/
theorem step_cases {s t : State} (h : step s = .next t) : StepCase s t := by
  unfold step at h
  cases hh : s.host with
  | nil => rw [hh] at h; cases h; exact .wait hh
  | cons a rest =>
    rw [hh] at h
    cases a with
    | reset => cases h; exact .reset hh
    | bind src => cases h; exact .bind hh
    | command cmd =>
      simp only [perform, runCommand, illegal] at h
      cases hd : decode cmd with
      | ok i => rw [hd] at h; exact .command hh hd h
      | error e => rw [hd] at h; cases h; exact .illegal hh hd

/-! ### What the reading procedures leave unchanged (10_state.md R39(f)) -/

/-- The parts of the state that no reading procedure writes. -/
structure KeepsConfig (s u : State) : Prop where
  crc : u.crc = s.crc
  npay : u.npay = s.npay
  declBE : u.declBE = s.declBE
  wlen : u.wlen = s.wlen
  src : u.src = s.src
  params : u.params = s.params
  host : u.host = s.host
  stream : u.stream = s.stream
  resp : u.resp = s.resp

theorem KeepsConfig.refl (s : State) : KeepsConfig s s := ⟨rfl, rfl, rfl, rfl, rfl, rfl, rfl, rfl, rfl⟩

theorem KeepsConfig.trans {s m u : State} (h : KeepsConfig s m) (k : KeepsConfig m u) : KeepsConfig s u :=
  ⟨k.crc.trans h.crc, k.npay.trans h.npay, k.declBE.trans h.declBE, k.wlen.trans h.wlen, k.src.trans h.src,
    k.params.trans h.params, k.host.trans h.host, k.stream.trans h.stream, k.resp.trans h.resp⟩

theorem readwCase_keepsConfig {count : Nat} {s u : State} {r : Response} (h : ReadwCase count s r u) :
    KeepsConfig s u := by
  cases h <;> exact ⟨rfl, rfl, rfl, rfl, rfl, rfl, rfl, rfl, rfl⟩

theorem nextCase_keepsConfig {s u : State} {r : Response} (h : NextCase s r u) : KeepsConfig s u := by
  cases h <;> exact ⟨rfl, rfl, rfl, rfl, rfl, rfl, rfl, rfl, rfl⟩

theorem framesRead_keepsConfig {s m : State} {fs : List (List Byte × Half)} (h : FramesRead s fs m) :
    KeepsConfig s m := by
  induction h with
  | none s => exact .refl s
  | more hc _ ih => exact (nextCase_keepsConfig hc).trans ih

/-- A reading command keeps the configuration and, until it answers, RESP. -/
theorem execCase_keepsConfig {i : Instr} {s u : State} {r : Response} (h : ExecCase s i r u)
    (hi : isReadCommand i = true) : KeepsConfig s u := by
  cases h with
  | gate => exact .refl s
  | readw _ hc => exact readwCase_keepsConfig hc
  | next _ hc => exact nextCase_keepsConfig hc
  | all _ hf hc => exact (framesRead_keepsConfig hf).trans (nextCase_keepsConfig hc)
  | openAbsent | openOdd | opens => cases hi
  | crc _ hn | close hn | answer _ hn => cases hn.symm.trans hi

/-- No command writes the parameters or, before it answers, RESP. -/
theorem execCase_params_resp {i : Instr} {s u : State} {r : Response} (h : ExecCase s i r u) :
    u.params = s.params ∧ u.resp = s.resp := by
  cases h with
  | readw _ hc => exact ⟨(readwCase_keepsConfig hc).params, (readwCase_keepsConfig hc).resp⟩
  | next _ hc => exact ⟨(nextCase_keepsConfig hc).params, (nextCase_keepsConfig hc).resp⟩
  | all _ hf hc =>
    have hk := (framesRead_keepsConfig hf).trans (nextCase_keepsConfig hc)
    exact ⟨hk.params, hk.resp⟩
  | _ => exact ⟨rfl, rfl⟩

end Sys2Proof.Proofs

/-! # The invariants (10_state.md R39) -/

namespace Sys2Proof.Proofs

open Sys2Proof.Machine Sys2Proof.Laws Sys2Proof.Safety

/-! ### What the invariants say in each RSTATE -/

/-- A state in Idle, with or without the error of a failed FR.OPEN. -/
theorem invariants_of_idle {t : State} (hr : t.rstate = .idle) (ho : t.hopen = false) (hc : t.cur = 0)
    (hw : t.wlen = 0) (hm : Memory.wf t = true) (he : t.errKind ≠ 0x82#8) : Invariants t where
  handle h := by rw [ho] at h; cases h
  failedKind h := by rw [hr] at h; cases h
  errorState _ := .inr hr
  idleCursor _ := ⟨hc, hw⟩
  cursor := by omega
  memory := hm
  terminatedBy h := by rw [hr] at h; cases h
  integrity h := absurd h he

/-- No error is latched where ERR is 0. -/
theorem errKind_ne_of_err_eq_zero {t : State} (he : t.err = 0#16) : t.errKind ≠ 0x82#8 := by
  rw [State.errKind, he]; decide

/-- A state in Reading. -/
theorem invariants_of_reading {t : State} (hr : t.rstate = .reading) (he : t.err = 0#16) (hc : t.cur ≤ t.wlen)
    (hm : Memory.wf t = true) : Invariants t where
  handle _ := hr
  failedKind h := by rw [hr] at h; cases h
  errorState h := absurd he h
  idleCursor h := by rw [hr] at h; cases h
  cursor := hc
  memory := hm
  terminatedBy h := by rw [hr] at h; cases h
  integrity h := absurd h (errKind_ne_of_err_eq_zero he)

/-- A state in Terminated. -/
theorem invariants_of_terminated {t : State} (hr : t.rstate = .terminated) (ho : t.hopen = false)
    (he : t.err = 0#16) (hc : t.cur ≤ t.wlen) (hm : Memory.wf t = true)
    (hend : (1 ≤ t.cur ∧ t.word (t.cur - 1) = some 0xA5A5#16) ∨
      (t.params.eofPolicy = .endOfStream ∧ t.cur = t.wlen)) : Invariants t where
  handle h := by rw [ho] at h; cases h
  failedKind h := by rw [hr] at h; cases h
  errorState h := absurd he h
  idleCursor h := by rw [hr] at h; cases h
  cursor := hc
  memory := hm
  terminatedBy _ := hend
  integrity h := absurd h (errKind_ne_of_err_eq_zero he)

/-- A state in Failed, with ERR as `Fail` leaves it (R160). -/
theorem invariants_of_failed {t : State} (kind : ErrKind) (cause : Byte) (hr : t.rstate = .failed)
    (ho : t.hopen = false) (he : t.err = errValue kind cause) (hc : t.cur ≤ t.wlen) (hm : Memory.wf t = true)
    (hi : kind = .integrity → t.errStored ≠ t.errComputed ∧ t.errComputed = t.fcrc) : Invariants t := by
  have hk : t.errKind = kind.code := by rw [State.errKind, he, errValue_kind]
  exact
    { handle := fun h => by rw [ho] at h; cases h
      failedKind := fun _ => by rw [hk]; cases kind <;> decide
      errorState := fun _ => .inl hr
      idleCursor := fun h => by rw [hr] at h; cases h
      cursor := hc
      memory := hm
      terminatedBy := fun h => by rw [hr] at h; cases h
      integrity := fun h => by
        cases kind with
        | integrity => exact hi rfl
        | io | format => rw [hk] at h; exact absurd h (by decide) }

/-- In Reading ERR is 0 (R39(b)). -/
theorem err_eq_zero_of_reading {s : State} (h : Invariants s) (hr : s.rstate = .reading) : s.err = 0#16 := by
  by_contra he
  rcases h.errorState he with hf | hf <;> rw [hr] at hf <;> cases hf

/-- The invariants do not speak of CRC, SRC, RESP and the host's actions, and closing the handle keeps them. -/
theorem invariants_with_ports {s : State} (h : Invariants s) (c : Half) (src : Option (List Byte))
    (resp : List Response) (host : List HostAction) {b : Bool} (hb : b = true → s.hopen = true) :
    Invariants { s with crc := c, src := src, resp := resp, host := host, hopen := b } where
  handle ho := h.handle (hb ho)
  failedKind := h.failedKind
  errorState := h.errorState
  idleCursor := h.idleCursor
  cursor := h.cursor
  memory := h.memory
  terminatedBy hr := (h.terminatedBy hr).imp_left fun ⟨h1, hw⟩ => ⟨h1, (word_congr rfl rfl _).trans hw⟩
  integrity := h.integrity

theorem invariants_respond {s : State} (h : Invariants s) (r : Response) : Invariants (s.respond r) :=
  invariants_with_ports h s.crc s.src _ s.host id

/-! ### Every operation keeps the invariants -/

/-- FR.READW in Reading keeps the invariants (R112). -/
theorem readwCase_invariants {count : Half} {s u : State} {r : Response} (hc : ReadwCase count.toNat s r u)
    (h : Invariants s) (hr : s.rstate = .reading) : Invariants u := by
  have hm := hc.memory_wf h.memory
  have herr := err_eq_zero_of_reading h hr
  cases hc with
  | closed => exact invariants_of_failed .io 2#8 rfl rfl rfl h.cursor hm nofun
  | ioFailure => exact invariants_of_failed .io 1#8 rfl rfl rfl h.cursor hm nofun
  | truncated => exact invariants_of_failed .format 1#8 rfl rfl rfl h.cursor hm nofun
  | words ws _ _ hl _ =>
    have hcur : s.cur + count.toNat ≤ s.wlen := by have := h.cursor; omega
    exact invariants_of_reading hr herr hcur hm

/-- `NextFrame` in Reading keeps the invariants (R113). -/
theorem nextCase_invariants {s u : State} {r : Response} (hc : NextCase s r u) (h : Invariants s)
    (hr : s.rstate = .reading) : Invariants u := by
  have hm := hc.memory_wf h.memory
  have herr := err_eq_zero_of_reading h hr
  cases hc with
  | closed => exact invariants_of_failed .io 2#8 rfl rfl rfl h.cursor hm nofun
  | ioFailure => exact invariants_of_failed .io 1#8 rfl rfl rfl h.cursor hm nofun
  | noWordLeft => exact invariants_of_failed .format 1#8 rfl rfl rfl h.cursor hm nofun
  | incomplete => exact invariants_of_failed .format 1#8 rfl rfl rfl h.cursor hm nofun
  | cleanEnd _ _ hl hp =>
    exact invariants_of_terminated rfl rfl herr h.cursor hm (.inr ⟨hp, Nat.le_antisymm h.cursor hl⟩)
  | sentinelFound _ _ hl hw =>
    exact invariants_of_terminated rfl rfl herr hl hm
      (.inl ⟨Nat.succ_pos _, (word_congr (s := s) rfl rfl _).trans hw⟩)
  | valid _ _ _ _ _ hl =>
    exact invariants_of_reading hr herr (show s.cur + s.npay.toNat + 1 ≤ s.wlen by omega) hm
  | mismatch _ _ _ _ _ hl _ _ _ _ hne =>
    exact invariants_of_failed .integrity 0#8 rfl rfl rfl (show s.cur + s.npay.toNat + 1 ≤ s.wlen by omega) hm
      fun _ => ⟨hne.symm, rfl⟩

/-- A run of Frames keeps the invariants and stays in Reading (R115). -/
theorem framesRead_invariants {s m : State} {fs : List (List Byte × Half)} (hf : FramesRead s fs m)
    (h : Invariants s) (hr : s.rstate = .reading) : Invariants m ∧ m.rstate = .reading := by
  induction hf with
  | none => exact ⟨h, hr⟩
  | more hc _ ih => exact ih (nextCase_invariants hc h hr) (by cases hc; exact hr)

/-- The error that a failing FR.OPEN latches keeps the invariants in Idle (R111). -/
theorem invariants_openError {s : State} (h : Invariants s) (be : Bool) (n : Half) {kind : ErrKind}
    (hk : kind ≠ .integrity) : Invariants ((s.beginOpen be n).openError kind) := by
  have he : ((s.beginOpen be n).openError kind).errKind = kind.code := errValue_kind kind 0#8
  refine invariants_of_idle rfl rfl rfl rfl (memory_wf_beginOpen (s := s) be n h.memory) ?_
  rw [he]
  cases kind with
  | io | format => decide
  | integrity => exact absurd rfl hk

/-- Every command keeps the invariants, before its answer is appended to RESP. -/
theorem execCase_invariants {i : Instr} {s u : State} {r : Response} (hc : ExecCase s i r u) (h : Invariants s) :
    Invariants u := by
  cases hc with
  | gate => exact h
  | readw hr hc => exact readwCase_invariants hc h hr
  | next hr hc => exact nextCase_invariants hc h hr
  | all hr hf hc =>
    obtain ⟨hm, hmr⟩ := framesRead_invariants hf h hr
    exact nextCase_invariants hc hm hmr
  | openAbsent be n => exact invariants_openError h be n (by decide)
  | openOdd be n => exact invariants_openError h be n (by decide)
  | opens be n _ he =>
    exact invariants_of_reading rfl rfl (Nat.zero_le _) (memory_wf_snapshot he (memory_wf_beginOpen be n h.memory))
  | crc v => exact invariants_with_ports h v s.src s.resp s.host id
  | close => exact invariants_with_ports h s.crc s.src s.resp s.host nofun
  | answer => exact h

theorem exec_invariants {i : Instr} {s t : State} (h : Invariants s) (he : exec i s = .next t) : Invariants t := by
  obtain ⟨r, u, hc, rfl⟩ := exec_cases he
  exact invariants_respond (execCase_invariants hc h) r

/-- Settles O46: the reset state is in Idle with every register 0 (R40). -/
theorem resetMeetsTheInvariants : Obligations.ResetMeetsTheInvariants := by
  intro p
  exact invariants_of_idle rfl rfl rfl rfl (memory_wf_resetWith p) (errKind_ne_of_err_eq_zero rfl)

/-- Settles O47, by the cases of a step: RESET makes a reset state, BIND and an illegal word leave what the invariants
speak of, and every command keeps them. -/
theorem stepKeepsTheInvariants : Obligations.StepKeepsTheInvariants := by
  intro s t h hs
  have taken (rest : List HostAction) (src : Option (List Byte)) :
      Invariants { s with host := rest, src := src } := invariants_with_ports h s.crc src s.resp rest id
  cases step_cases hs with
  | wait => exact h
  | reset =>
    exact invariants_of_idle rfl rfl rfl rfl (memory_wf_resetWith s.params) (errKind_ne_of_err_eq_zero rfl)
  | bind => exact taken _ _
  | illegal => exact invariants_respond (taken _ s.src) _
  | command _ _ he => exact exec_invariants (taken _ s.src) he

end Sys2Proof.Proofs

/-! # Frames of the reading commands, the cursor and the traces (10_state.md R26, R36, R39(f), (g)) -/

namespace Sys2Proof.Proofs

open Sys2Proof.Machine Sys2Proof.Laws

/-- Settles O8, by evaluating the ten registers for each value of the parameters. -/
theorem registersAfterReset : Obligations.RegistersAfterReset := by
  rintro ⟨hostBE, eofPolicy⟩
  refine ⟨?_, rfl⟩
  cases hostBE <;> cases eofPolicy <;> decide

/-! ### BUF beyond one read -/

/-- FR.READW writes no word of BUF past the words it reads (20_memory.md R59). -/
theorem readwCase_bufWord {count : Nat} {s u : State} {r : Response} (h : ReadwCase count s r u) {k : Nat}
    (hk : count ≤ k) : u.bufWord k = s.bufWord k := by
  cases h with
  | words ws _ _ _ hws => exact writeBuf_bufWord_of_le s ws (by rw [wordsFrom_length hws]; exact hk)
  | _ => rfl

/-- `NextFrame` writes no word of BUF past the frame's words (20_memory.md R59). -/
theorem nextCase_bufWord {s u : State} {r : Response} (h : NextCase s r u) {k : Nat}
    (hk : s.npay.toNat + 1 ≤ k) : u.bufWord k = s.bufWord k := by
  have frame {ws : List Half} (w : Half) (hws : s.wordsFrom s.cur s.npay.toNat = some ws) :
      (s.writeBuf (ws ++ [w])).bufWord k = s.bufWord k :=
    writeBuf_bufWord_of_le s _ (by simpa [wordsFrom_length hws] using hk)
  cases h with
  | valid _ _ stored _ _ _ _ _ hws => exact frame stored hws
  | mismatch _ _ stored _ _ _ _ _ hws => exact frame stored hws
  | _ => rfl

/-- A reading command writes no word of BUF past its reach. -/
theorem execCase_bufWord {i : Instr} {s u : State} {r : Response} (h : ExecCase s i r u)
    (hi : isReadCommand i = true) {k : Nat} (hk : bufReach i s ≤ k) : u.bufWord k = s.bufWord k := by
  cases h with
  | gate => rfl
  | readw _ hc => exact readwCase_bufWord hc hk
  | next _ hc => exact nextCase_bufWord hc hk
  | all _ hf hc =>
    have hn := (framesRead_keepsConfig hf).npay
    exact (nextCase_bufWord hc (by rw [hn]; exact hk)).trans (hf.bufWord hk)
  | openAbsent | openOdd | opens => cases hi
  | crc _ hn | close hn | answer _ hn => cases hn.symm.trans hi

/-! ### The error latches -/

/-- `NextFrame` writes ERRSTORED and ERRCOMPUTED only with an integrity error (R32, R33). -/
theorem nextCase_errValues {s u : State} {r : Response} (h : NextCase s r u) (he : u.errKind ≠ 0x82#8) :
    u.errStored = s.errStored ∧ u.errComputed = s.errComputed := by
  cases h with
  | mismatch => exact absurd (errValue_kind .integrity 0#8) he
  | _ => exact ⟨rfl, rfl⟩

/-- FR.READW writes none of FCRC, FOUT, ERRSTORED and ERRCOMPUTED. -/
theorem readwCase_keeps {count : Nat} {s u : State} {r : Response} (h : ReadwCase count s r u) :
    u.fcrc = s.fcrc ∧ u.fout = s.fout ∧ u.errStored = s.errStored ∧ u.errComputed = s.errComputed := by
  cases h <;> exact ⟨rfl, rfl, rfl, rfl⟩

/-- A run of Frames writes neither ERRSTORED nor ERRCOMPUTED. -/
theorem framesRead_errValues {s m : State} {fs : List (List Byte × Half)} (h : FramesRead s fs m) :
    m.errStored = s.errStored ∧ m.errComputed = s.errComputed := by
  obtain ⟨-, -, -, -, -, -, -, -, -, -, -, hst, hco, -⟩ := h.fields
  exact ⟨hst, hco⟩

/-- A reading command writes ERRSTORED and ERRCOMPUTED only with an integrity error. -/
theorem execCase_errValues {i : Instr} {s u : State} {r : Response} (h : ExecCase s i r u)
    (hi : isReadCommand i = true) (he : u.errKind ≠ 0x82#8) :
    u.errStored = s.errStored ∧ u.errComputed = s.errComputed := by
  cases h with
  | gate => exact ⟨rfl, rfl⟩
  | readw _ hc => exact (readwCase_keeps hc).2.2
  | next _ hc => exact nextCase_errValues hc he
  | all _ hf hc =>
    obtain ⟨hs, hc⟩ := nextCase_errValues hc he
    obtain ⟨hs', hc'⟩ := framesRead_errValues hf
    exact ⟨hs.trans hs', hc.trans hc'⟩
  | openAbsent | openOdd | opens => cases hi
  | crc _ hn | close hn | answer _ hn => cases hn.symm.trans hi

/-- FR.READW, whatever its end, writes none of FCRC, FOUT, ERRSTORED and ERRCOMPUTED. -/
theorem execCase_frReadw_keeps {count : Half} {s u : State} {r : Response} (h : ExecCase s (.frReadw count) r u) :
    u.fcrc = s.fcrc ∧ u.fout = s.fout ∧ u.errStored = s.errStored ∧ u.errComputed = s.errComputed := by
  cases h with
  | gate => exact ⟨rfl, rfl, rfl, rfl⟩
  | readw _ hc => exact readwCase_keeps hc
  | crc _ hn | close hn | answer _ hn => cases hn

/-- Settles O40, from what each way a reading command can end leaves unchanged. -/
theorem readingCommandsFrame : Obligations.ReadingCommandsFrame := by
  intro i s t hi h
  obtain ⟨r, u, hc, rfl⟩ := exec_cases h
  have hk := execCase_keepsConfig hc hi
  refine ⟨hk.crc, hk.npay, hk.declBE, hk.wlen, hk.src, hk.params, hk.host, fun a => ?_,
    fun k hb => execCase_bufWord hc hi hb, execCase_errValues (u := u) hc hi, ?_⟩
  · simp only [State.streamByte, respond_stream, hk.stream]
  · rintro count rfl
    exact execCase_frReadw_keeps (u := u) hc

/-! ### The cursor -/

/-- `u` is `s` with the cursor where it was or further on, and within WLEN if it was. -/
structure Advances (s u : State) : Prop where
  mono : s.cur ≤ u.cur
  within : s.cur ≤ s.wlen → u.cur ≤ u.wlen

theorem Advances.of_eq {s u : State} (hc : u.cur = s.cur) (hw : u.wlen = s.wlen) : Advances s u :=
  ⟨hc.ge, fun h => by rwa [hc, hw]⟩

theorem Advances.trans {s m u : State} (h : Advances s m) (k : Advances m u) : Advances s u :=
  ⟨h.mono.trans k.mono, fun hs => k.within (h.within hs)⟩

theorem readwCase_advances {count : Nat} {s u : State} {r : Response} (h : ReadwCase count s r u) :
    Advances s u := by
  cases h with
  | words _ _ _ hl =>
    exact ⟨Nat.le_add_right _ _, fun hs => show s.cur + count ≤ s.wlen by omega⟩
  | _ => exact .of_eq rfl rfl

theorem nextCase_advances {s u : State} {r : Response} (h : NextCase s r u) : Advances s u := by
  have frame (hl : s.npay.toNat + 1 ≤ s.wlen - s.cur) :
      s.cur ≤ s.cur + s.npay.toNat + 1 ∧ s.cur + s.npay.toNat + 1 ≤ s.wlen := by omega
  cases h with
  | sentinelFound _ _ hl => exact ⟨Nat.le_succ _, fun _ => hl⟩
  | valid _ _ _ _ _ hl => exact ⟨(frame hl).1, fun _ => (frame hl).2⟩
  | mismatch _ _ _ _ _ hl => exact ⟨(frame hl).1, fun _ => (frame hl).2⟩
  | _ => exact .of_eq rfl rfl

theorem framesRead_advances {s m : State} {fs : List (List Byte × Half)} (h : FramesRead s fs m) :
    Advances s m := by
  induction h with
  | none => exact .of_eq rfl rfl
  | more hc _ ih => exact (nextCase_advances hc).trans ih

/-- A command that reads no stream and opens none leaves the cursor alone. -/
theorem execCase_cur {i : Instr} {s u : State} {r : Response} (h : ExecCase s i r u)
    (ho : isOpenCommand i = false) (hi : isReadCommand i = false) : u.cur = s.cur := by
  cases h with
  | readw | next | all => cases hi
  | openAbsent | openOdd | opens => cases ho
  | _ => rfl

/-- Short of FR.OPEN every command advances the cursor, if it moves it. -/
theorem execCase_advances {i : Instr} {s u : State} {r : Response} (h : ExecCase s i r u)
    (ho : isOpenCommand i = false) : Advances s u := by
  cases h with
  | readw _ hc => exact readwCase_advances hc
  | next _ hc => exact nextCase_advances hc
  | all _ hf hc => exact (framesRead_advances hf).trans (nextCase_advances hc)
  | openAbsent | openOdd | opens => cases ho
  | _ => exact .of_eq rfl rfl

/-- Settles O44, by the ways a command can complete. -/
theorem cursorNeverGoesBack : Obligations.CursorNeverGoesBack := by
  intro i s t h ho
  obtain ⟨r, u, hc, rfl⟩ := exec_cases h
  have ha := execCase_advances hc ho
  exact ⟨ha.mono, ha.within, execCase_cur (u := u) hc ho⟩

/-! ### The payload is the frame's image (20_memory.md R57, R58) -/

/-- The host image of a stream word is its two bytes, exchanged when the declared and the host's order differ. -/
theorem hostBytes_declaredWord (hostBE declBE : Bool) (b0 b1 : Byte) :
    hostBytes hostBE (declaredWord declBE b0 b1) = if declBE ^^ hostBE then [b1, b0] else [b0, b1] := by
  have high (a b : Byte) : ((a.setWidth 16 <<< 8 ||| b.setWidth 16 : Half) >>> 8).setWidth 8 = a := by
    ext i hi; interval_cases i <;> simp
  have low (a b : Byte) : (a.setWidth 16 <<< 8 ||| b.setWidth 16 : Half).setWidth 8 = b := by
    ext i hi; interval_cases i <;> simp
  cases hostBE <;> cases declBE <;> simp [hostBytes, declaredWord, high, low]

/-- The stream bytes of `n + 1` words are the two bytes of the first word and the bytes of the `n` after it. -/
theorem stream_bytes_succ {s : State} {p : Nat} {b0 b1 : Byte} (h : s.hasWordBytes p b0 b1) (n : Nat) :
    (s.stream.drop (2 * p)).take (2 * (n + 1)) = b0 :: b1 :: (s.stream.drop (2 * (p + 1))).take (2 * n) := by
  obtain ⟨h0, h1⟩ := h
  obtain ⟨l0, rfl⟩ := List.getElem?_eq_some_iff.1 h0
  obtain ⟨l1, rfl⟩ := List.getElem?_eq_some_iff.1 h1
  rw [List.drop_eq_getElem_cons l0, List.drop_eq_getElem_cons l1]
  rfl

/-- The host image of the words from `p` on is their stream bytes, with every pair exchanged when SWAP is 1. -/
theorem payloadBytes_of_wordsFrom {s : State} {p n : Nat} {ws : List Half} (h : s.wordsFrom p n = some ws) :
    payloadBytes s.params.hostBE ws =
      if s.swap then exchangePairs ((s.stream.drop (2 * p)).take (2 * n))
      else (s.stream.drop (2 * p)).take (2 * n) := by
  induction n generalizing p ws with
  | zero => cases h; simp [payloadBytes, exchangePairs]
  | succ n ih =>
    obtain ⟨w, rest, hw, hr, rfl⟩ := (wordsFrom_succ_eq_some s p n ws).1 h
    obtain ⟨b0, b1, hb, rfl⟩ := (word_eq_some_iff s p w).1 hw
    rw [payloadBytes, hostBytes_declaredWord, ih hr, stream_bytes_succ hb]
    cases hs : s.swap <;> rw [State.swap] at hs <;> simp [hs, exchangePairs]

/-- The payload of the frame at CUR is the frame's image. -/
theorem payloadBytes_eq_frameImage {s : State} {ws : List Half} (h : s.wordsFrom s.cur s.npay.toNat = some ws) :
    payloadBytes s.params.hostBE ws = s.frameImage := payloadBytes_of_wordsFrom h

/-! ### Frames that are answered are valid (R113) -/

/-- A frame that `NextFrame` answers is valid at the cursor. -/
theorem nextCase_validFrame {s u : State} {p : List Byte} {c : Half} (h : NextCase s (.frame p c) u) :
    s.ValidFrame 0 p := by
  cases h with
  | valid w0 ws stored _ _ _ hw hs hws hst hc =>
    obtain ⟨a0, a1, ha, rfl⟩ := (word_eq_some_iff s _ w0).1 hw
    obtain ⟨c0, c1, hb, rfl⟩ := (word_eq_some_iff s _ _).1 hst
    exact
      { image := by rw [atFrame_zero]; exact payloadBytes_eq_frameImage hws
        whole := by rw [payloadBytes_length, wordsFrom_length hws]
        first := ⟨a0, a1, by rwa [atFrame_zero], hs⟩
        stored := ⟨c0, c1, by rwa [atFrame_zero], hc⟩ }

/-- The checksum of a Frame answer is its payload's. -/
theorem nextCase_frame_checksum {s u : State} {p : List Byte} {c : Half} (h : NextCase s (.frame p c) u) :
    checksum p = c := by
  cases h with
  | valid _ _ _ _ _ _ _ _ _ _ hc => exact hc

/-- A frame valid after a Frame answer is valid one frame further on before it. -/
theorem validFrame_succ_of_nextCase {s u : State} {p q : List Byte} {c : Half} {j : Nat}
    (h : NextCase s (.frame p c) u) (hv : u.ValidFrame j q) : s.ValidFrame (j + 1) q := by
  have hk := nextCase_keepsConfig h
  have hcur : u.cur = (s.atFrame 1).cur := by rw [h.frame_consumes.2.1, atFrame_cur, Nat.one_mul]
  rw [Nat.add_comm, ← validFrame_atFrame]
  exact (validFrame_congr (s := s.atFrame 1) hk.stream hk.declBE hk.npay hk.params hcur j q).1 hv

/-- The Frames of a run are valid one after another from the cursor on (R115). -/
theorem framesRead_validFrame {s m : State} {fs : List (List Byte × Half)} (h : FramesRead s fs m) {j : Nat}
    {p : List Byte} (hj : (fs.map Prod.fst)[j]? = some p) : s.ValidFrame j p := by
  induction h generalizing j with
  | none => cases hj
  | more hc _ ih =>
    cases j with
    | zero => cases hj; exact nextCase_validFrame hc
    | succ j => exact validFrame_succ_of_nextCase hc (ih hj)

/-! ### The traces -/

/-- An answer of `NextFrame` that is no Frame emits nothing. -/
theorem nextCase_fout {s u : State} {r : Response} (h : NextCase s r u) (hr : r.isFrame = false) :
    u.fout = s.fout := by
  cases h with
  | valid => cases hr
  | _ => rfl

/-- A run of Frames emits their payloads in order. -/
theorem framesRead_fout {s m : State} {fs : List (List Byte × Half)} (h : FramesRead s fs m) :
    m.fout = s.fout ++ fs.map Prod.fst := by
  obtain ⟨-, -, -, -, -, -, -, -, -, -, -, -, -, hfout, -⟩ := h.fields
  exact hfout

/-- What a command emits: nothing, or, for FR.NEXT and FR.ALL in Reading, the payloads of a run of Frames; the run of
FR.NEXT is the one Frame it answers. -/
theorem execCase_fout {i : Instr} {s u : State} {r : Response} (h : ExecCase s i r u) :
    u.fout = s.fout ∨
      (s.rstate = .reading ∧ ∃ fs m, FramesRead s fs m ∧ u.fout = s.fout ++ fs.map Prod.fst ∧
        (i = .frAll ∨ i = .frNext ∧ ∃ p c, fs = [(p, c)] ∧ checksum p = c ∧ r = .frame p c)) := by
  cases h with
  | readw _ hc => exact .inl (readwCase_keeps hc).2.1
  | next hr hc =>
    cases r with
    | frame p c =>
      have hf : FramesRead s [(p, c)] u := .more hc (.none u)
      exact .inr ⟨hr, _, u, hf, framesRead_fout hf, .inr ⟨rfl, p, c, rfl, nextCase_frame_checksum hc, rfl⟩⟩
    | _ => exact .inl (nextCase_fout hc rfl)
  | all hr hf hc hn =>
    exact .inr ⟨hr, _, _, hf, (nextCase_fout hc hn).trans (framesRead_fout hf), .inl rfl⟩
  | _ => exact .inl rfl

/-- Settles O41: what a command emits is a run of Frames, and these are valid. -/
theorem onlyValidatedFramesAreEmitted : Obligations.OnlyValidatedFramesAreEmitted := by
  intro i s t h
  obtain ⟨r, u, hc, rfl⟩ := exec_cases h
  rcases execCase_fout hc with hf | ⟨hr, fs, m, hfs, hf, hi⟩
  · exact ⟨[], by simpa using hf, nofun, fun hn => absurd rfl hn, fun _ => .inl rfl⟩
  · refine ⟨fs.map Prod.fst, hf, fun j p hj => framesRead_validFrame hfs hj, fun _ => ⟨?_, hr⟩, ?_⟩
    · exact hi.symm.imp And.left id
    · rintro rfl
      rcases hi with hi | ⟨-, p, c, rfl, hsum, rfl⟩
      · cases hi
      · exact .inr ⟨p, c, rfl, hsum, congrArg (· ++ _) (execCase_params_resp hc).2⟩

/-- No command removes or changes an element of RESP or FOUT, or changes the parameters. -/
theorem exec_traces {i : Instr} {s t : State} (h : exec i s = .next t) :
    t.params = s.params ∧ s.resp <+: t.resp ∧ s.fout <+: t.fout := by
  obtain ⟨ps, hf, -⟩ := onlyValidatedFramesAreEmitted i s t h
  obtain ⟨r, u, hc, rfl⟩ := exec_cases h
  obtain ⟨hp, hr⟩ := execCase_params_resp hc
  exact ⟨hp, ⟨[r], by rw [respond_resp, hr]⟩, ⟨ps, hf.symm⟩⟩

/-- Settles O45, by the cases of a step. -/
theorem tracesOnlyGrow : Obligations.TracesOnlyGrow := by
  intro s t h
  cases step_cases h with
  | reset hh => exact ⟨rfl, fun hn => absurd hh (hn _)⟩
  | illegal => exact ⟨rfl, fun _ => by simp⟩
  | command _ _ he => exact ⟨(exec_traces he).1, fun _ => (exec_traces he).2⟩
  | wait | bind => exact ⟨rfl, fun _ => by simp⟩

end Sys2Proof.Proofs

/-! # The memories (20_memory.md) -/

namespace Sys2Proof.Proofs

open Sys2Proof.Machine Sys2Proof.Laws

/-- Settles O23: the frame's image is the host image of its words, and a payload word has two bytes. -/
theorem payloadIsTheStreamBytes : Obligations.PayloadIsTheStreamBytes := by
  intro s ws h
  have himage : payloadBytes s.params.hostBE ws = s.frameImage := payloadBytes_eq_frameImage h
  refine ⟨himage, ?_⟩
  rw [← himage, payloadBytes_length, wordsFrom_length h]

/-- Settles O22, by the form a word that exists has. -/
theorem wordFollowsTheDeclaredOrder : Obligations.WordFollowsTheDeclaredOrder := by
  intro s i b0 b1 h
  exact (word_eq_some_iff s i _).2 ⟨b0, b1, h, rfl⟩

end Sys2Proof.Proofs

/-! # Encoding and the command port (30_encoding.md) -/

namespace Sys2Proof.Proofs

open Sys2Proof.Machine Sys2Proof.Laws Sys2Proof.Safety

/-! ### The fields of a command word (R71, R73) -/

/-- The bits under part of a mask are those of the match value. -/
theorem and_submask {w mask m sub : CmdWord} (h : w &&& mask = m) (hs : mask &&& sub = sub) :
    w &&& sub = m &&& sub := by
  rw [← h, BitVec.and_assoc, hs]

theorem opField_shifted (w : CmdWord) : (opField w).setWidth 32 <<< 24 = w &&& 0xFF000000#32 := by
  apply BitVec.eq_of_getLsbD_eq
  intro i hi
  interval_cases i <;> simp [opField]

theorem imm16Field_setWidth (w : CmdWord) : (imm16Field w).setWidth 32 = w &&& 0xFFFF#32 := by
  apply BitVec.eq_of_getLsbD_eq
  intro i hi
  interval_cases i <;> simp [imm16Field]

theorem imm8Field_setWidth (w : CmdWord) : (imm8Field w).setWidth 32 = w &&& 0xFF#32 := by
  apply BitVec.eq_of_getLsbD_eq
  intro i hi
  interval_cases i <;> simp [imm8Field]

theorem beBit_beField (w : CmdWord) : beBit (beField w) = w &&& 0x00010000#32 := by
  apply BitVec.eq_of_getLsbD_eq
  intro i hi
  cases h : beField w <;> interval_cases i <;> simp_all [beField, beBit]

theorem opField_shift (op : Byte) : opField (op.setWidth 32 <<< 24) = op := by
  apply BitVec.eq_of_getLsbD_eq
  intro i hi
  interval_cases i <;> simp [opField]

theorem opField_eq_iff (w : CmdWord) (op : Byte) : opField w = op ↔ w &&& 0xFF000000#32 = op.setWidth 32 <<< 24 := by
  rw [← opField_shifted]
  constructor
  · intro h
    rw [h]
  · intro h
    simpa only [opField_shift] using congrArg opField h

/-- An operand is read back from under the match value. -/
theorem imm16Field_or {m : CmdWord} (hm : imm16Field m = 0#16) (v : Half) : imm16Field (m ||| v.setWidth 32) = v := by
  unfold imm16Field at *
  simp [BitVec.extractLsb'_or, hm, ← BitVec.setWidth_eq_extractLsb']

theorem imm8Field_or {m : CmdWord} (hm : imm8Field m = 0#8) (b : Byte) : imm8Field (m ||| b.setWidth 32) = b := by
  unfold imm8Field at *
  simp [BitVec.extractLsb'_or, hm, ← BitVec.setWidth_eq_extractLsb']

theorem beField_frOpen (be : Bool) (n : Half) : beField (encode (.frOpen be n)) = be := by
  cases be <;> simp [beField, encode, beBit]

/-! ### Decoding by the rows of the opcode map (R74, R75) -/

/-- The command of row `k` of the opcode map with the operands of `w`. -/
def commandOfRow (w : CmdWord) : Nat → Instr
  | 0 => .crcLoad (imm16Field w)
  | 1 => .crcInit
  | 2 => .crcByte (imm8Field w)
  | 3 => .frOpen (beField w) (imm16Field w)
  | 4 => .frReadw (imm16Field w)
  | 5 => .frNext
  | 6 => .frAll
  | 7 => .frClose
  | _ => .rdreg (imm8Field w)

theorem encode_matches_row : ∀ i : Instr, MatchesItsRow.Statement i
  | .crcLoad v => MatchesItsRow.crcLoad v
  | .crcInit => MatchesItsRow.crcInit
  | .crcByte b => MatchesItsRow.crcByte b
  | .frOpen be n => MatchesItsRow.frOpen be n
  | .frReadw c => MatchesItsRow.frReadw c
  | .frNext => MatchesItsRow.frNext
  | .frAll => MatchesItsRow.frAll
  | .frClose => MatchesItsRow.frClose
  | .rdreg r => MatchesItsRow.rdreg r

theorem commandOfRow_encode (i : Instr) : commandOfRow (encode i) (MatchesItsRow.rowOf i) = i := by
  cases i with
  | crcLoad v => exact congrArg Instr.crcLoad (imm16Field_or rfl v)
  | crcByte b => exact congrArg Instr.crcByte (imm8Field_or rfl b)
  | frOpen be n => exact congrArg₂ Instr.frOpen (beField_frOpen be n) (imm16Field_or (by cases be <;> rfl) n)
  | frReadw c => exact congrArg Instr.frReadw (imm16Field_or rfl c)
  | rdreg r => exact congrArg Instr.rdreg (imm8Field_or rfl r)
  | crcInit | frNext | frAll | frClose => rfl

/-- Every mask fixes the opcode, and the match value is 0 in the must-be-zero bits of the format (R72). -/
theorem opcodeRows_form : ∀ row ∈ opcodeRows,
    row.2 &&& 0xFF000000#32 = 0xFF000000#32 ∧ row.1 &&& (row.2 &&& 0x00FFFFFF#32) = 0#32 := by simp [opcodeRows]

theorem ifZero_eq_ok_iff {mbz w : CmdWord} {i j : Instr} : ifZero mbz w i = .ok j ↔ w &&& mbz = 0#32 ∧ i = j := by
  unfold ifZero
  split <;> simp_all

theorem ifRegister_eq_ok_iff {r : Byte} {e : Except Illegal Instr} {i : Instr} :
    ifRegister r e = .ok i ↔ e = .ok i ∧ r.toNat < 10 := by
  unfold ifRegister
  split
  · split <;> simp_all
  · simp

/-- A word that matches a row, and is no RDREG with a number above 9, decodes to the row's command. -/
theorem decode_of_matches_row {w : CmdWord} {k : Nat} {row : CmdWord × CmdWord} (hrow : opcodeRows[k]? = some row)
    (hm : w &&& row.2 = row.1) (hwf : (commandOfRow w k).wf = true) : decode w = .ok (commandOfRow w k) := by
  obtain ⟨htop, hmbz⟩ := opcodeRows_form row (List.mem_of_getElem? hrow)
  have hop : opField w = opField row.1 := by
    rw [opField_eq_iff, and_submask hm htop, opField_shifted]
  have hz : w &&& (row.2 &&& 0x00FFFFFF#32) = 0#32 := by
    rw [and_submask hm (by rw [← BitVec.and_assoc, BitVec.and_self]), hmbz]
  match k, hrow with
  | 0, rfl | 1, rfl | 2, rfl | 3, rfl | 4, rfl | 5, rfl | 6, rfl | 7, rfl =>
    simp_all [decode, opField, ifZero_eq_ok_iff, commandOfRow]
  | 8, rfl => simp_all [decode, opField, ifZero_eq_ok_iff, ifRegister_eq_ok_iff, commandOfRow, Instr.wf]

theorem decode_encode {i : Instr} (h : i.wf = true) : decode (encode i) = .ok i := by
  obtain ⟨row, hrow, hm⟩ := encode_matches_row i
  have hi := commandOfRow_encode i
  rw [← hi] at h
  exact (decode_of_matches_row hrow hm h).trans (congrArg Except.ok hi)

/-- Where the opcode, the must-be-zero bits and the operand bits are all the bits of a word (R72), the word is the
encoding of the command that has its opcode and operands. -/
theorem encode_of_ifZero {w mbz operands : CmdWord} {op : Byte} {i j : Instr} (hop : opField w = op)
    (h : ifZero mbz w j = .ok i) (hwf : j.wf = true) (hj : encode j = op.setWidth 32 <<< 24 ||| w &&& operands)
    (hall : 0xFF000000#32 ||| mbz ||| operands = BitVec.allOnes 32) : i.wf = true ∧ encode i = w := by
  obtain ⟨hz, rfl⟩ := ifZero_eq_ok_iff.1 h
  refine ⟨hwf, ?_⟩
  calc encode j
      = w &&& 0xFF000000#32 ||| w &&& mbz ||| w &&& operands := by
        rw [hj, ← hop, opField_shifted, hz, BitVec.or_zero]
    _ = w &&& BitVec.allOnes 32 := by rw [← BitVec.and_or_distrib_left, ← BitVec.and_or_distrib_left, hall]
    _ = w := BitVec.and_allOnes

/-- A word that decodes is the encoding of the command it decodes to: the nine opcodes, in the order of `decode`. -/
theorem encode_of_decode {w : CmdWord} {i : Instr} (h : decode w = .ok i) : i.wf = true ∧ encode i = w := by
  unfold decode at h
  split_ifs at h with hop hop hop hop hop hop hop hop hop
  · exact encode_of_ifZero (operands := 0xFFFF#32) hop h rfl (by simp [encode, imm16Field_setWidth]) (by decide)
  · exact encode_of_ifZero (operands := 0#32) hop h rfl (by simp [encode]) (by decide)
  · exact encode_of_ifZero (operands := 0xFF#32) hop h rfl (by simp [encode, imm8Field_setWidth]) (by decide)
  · exact encode_of_ifZero (operands := 0x1FFFF#32) hop h rfl
      (by simp [encode, beBit_beField, imm16Field_setWidth, BitVec.or_assoc, ← BitVec.and_or_distrib_left])
      (by decide)
  · exact encode_of_ifZero (operands := 0xFFFF#32) hop h rfl (by simp [encode, imm16Field_setWidth]) (by decide)
  · exact encode_of_ifZero (operands := 0#32) hop h rfl (by simp [encode]) (by decide)
  · exact encode_of_ifZero (operands := 0#32) hop h rfl (by simp [encode]) (by decide)
  · exact encode_of_ifZero (operands := 0#32) hop h rfl (by simp [encode]) (by decide)
  · obtain ⟨hr, hlt⟩ := ifRegister_eq_ok_iff.1 h
    exact encode_of_ifZero (operands := 0xFF#32) hop hr (decide_eq_true hlt)
      (by simp [encode, imm8Field_setWidth]) (by decide)

/-- Settles O1: a legal command's word matches its row and holds its operands; a word that decodes has no other bits. -/
theorem decodeAndEncodeAgree : Obligations.DecodeAndEncodeAgree :=
  ⟨fun _ => decode_encode, fun _ _ => encode_of_decode⟩

/-- Settles O2, by evaluating the decoder on the ten words. -/
theorem specWordsDecode : Obligations.SpecWordsDecode := by
  unfold Obligations.SpecWordsDecode
  decide

/-! ### Illegal words (R75) -/

/-- Bits 7:0 are the register number. -/
theorem imm8Field_toNat (w : CmdWord) : (imm8Field w).toNat = (w &&& 0xFF#32).toNat := by
  rw [← imm8Field_setWidth, BitVec.toNat_setWidth_of_le (by decide)]

/-- RDREG with a register number above 9 is illegal. -/
theorem decode_ne_ok_of_register {w : CmdWord} (hop : opField w = 0x20#8) (hr : 10 ≤ (imm8Field w).toNat)
    (i : Instr) : decode w ≠ .ok i := by
  intro h
  obtain ⟨-, hlt⟩ : _ ∧ (imm8Field w).toNat < 10 := ifRegister_eq_ok_iff.1 (by simpa [decode, hop] using h)
  omega

theorem decode_isOk_iff (w : CmdWord) : (∃ i, decode w = .ok i) ↔ legalWord w := by
  have hrdreg : w &&& 0xFF000000#32 = 0x20000000#32 ↔ opField w = 0x20#8 := (opField_eq_iff w 0x20#8).symm
  constructor
  · rintro ⟨i, h⟩
    obtain ⟨row, hrow, hm⟩ := encode_matches_row i
    rw [(encode_of_decode h).2] at hm
    refine ⟨⟨row, List.mem_of_getElem? hrow, hm⟩, fun ⟨htop, hr⟩ => ?_⟩
    rw [← imm8Field_toNat] at hr
    exact decode_ne_ok_of_register (hrdreg.1 htop) hr i h
  · rintro ⟨⟨row, hmem, hm⟩, hnot⟩
    obtain ⟨k, hrow⟩ := List.mem_iff_getElem?.1 hmem
    refine ⟨_, decode_of_matches_row hrow hm ?_⟩
    match k, hrow with
    | 0, rfl | 1, rfl | 2, rfl | 3, rfl | 4, rfl | 5, rfl | 6, rfl | 7, rfl => rfl
    | 8, rfl =>
      have htop : w &&& 0xFF000000#32 = 0x20000000#32 := and_submask hm rfl
      rw [← imm8Field_toNat] at hnot
      exact decide_eq_true (by simpa [htop] using hnot)

theorem step_command {s : State} {w : CmdWord} {rest : List HostAction} (h : s.host = .command w :: rest) :
    step s = runCommand w { s with host := rest } := by
  rw [step, h]
  rfl

theorem runCommand_of_decode {w : CmdWord} {i : Instr} (h : decode w = .ok i) (s : State) :
    runCommand w s = exec i s := by
  rw [runCommand, h]

theorem runCommand_of_not_legalWord {w : CmdWord} (h : ¬ legalWord w) (s : State) :
    runCommand w s = .next (s.respond .illegalCommand) := by
  unfold runCommand
  split
  · exact absurd ((decode_isOk_iff w).1 ⟨_, ‹_›⟩) h
  · rfl

/-- Settles O3: the legal words are those of the opcode map, and `illegal` appends its response alone. -/
theorem illegalWordsOnlyAnswer : Obligations.IllegalWordsOnlyAnswer := by
  refine ⟨decode_isOk_iff, ?_, ?_, fun s w rest hs hw => ?_⟩
  · simp [legalWord, opcodeRows]
  · simp [legalWord, opcodeRows]
  · exact (step_command hs).trans (runCommand_of_not_legalWord hw _)

/-! ### A step runs the decoded command (R70, R158) -/

/-- Settles O4: the word the host's interface places is the whole encoding. -/
theorem stepRunsTheDecodedCommand : Obligations.StepRunsTheDecodedCommand := by
  refine ⟨fun s w rest i hs hd => (step_command hs).trans (runCommand_of_decode hd _), fun s i hi => ?_⟩
  have hplaced : (s.withFetchWord 32 (encode i).toNat).host = .command (encode i) :: s.host := by
    simp [State.withFetchWord, Nat.mod_eq_of_lt (encode i).isLt]
  exact (step_command hplaced).trans (runCommand_of_decode (decode_encode hi) s)

/-! ### One answer per command (R79, R38) -/

/-- Settles O38: a command's state before its answer has the RESP it began with. -/
theorem everyCommandAnswersOnce : Obligations.EveryCommandAnswersOnce := by
  intro i s t h
  obtain ⟨r, u, hc, rfl⟩ := exec_cases h
  exact ⟨r, congrArg (· ++ [r]) (execCase_params_resp hc).2⟩

/-! ### Runs -/

theorem run_succ {s t : State} (h : step s = .next t) (k : Nat) : core.run (k + 1) s = core.run k t := by
  simp only [Host.Core.run, show core.step s = .next t from h]

theorem runCommand_completes {s : State} (h : Memory.wf s = true) (w : CmdWord) : ∃ t, runCommand w s = .next t := by
  unfold runCommand
  split
  · exact exec_completes h _
  · exact ⟨_, rfl⟩

/-- A step in a state whose memories have their form completes. -/
theorem step_completes {s : State} (h : Memory.wf s = true) : ∃ t, step s = .next t := by
  cases hh : s.host with
  | nil => exact ⟨s, by rw [step, hh]⟩
  | cons a rest =>
    rw [step, hh]
    cases a with
    | reset | bind => exact ⟨_, rfl⟩
    | command w => exact runCommand_completes (s := { s with host := rest }) h w

/-- Settles O48, by induction on the length of the run: a step completes and keeps the invariants. -/
theorem noRunStops : Obligations.NoRunStops := by
  intro k
  induction k with
  | zero => exact fun s h => ⟨s, rfl, h⟩
  | succ k ih =>
    intro s h
    obtain ⟨m, hm⟩ := step_completes h.memory
    obtain ⟨t, ht, hinv⟩ := ih m (stepKeepsTheInvariants s m h hm)
    exact ⟨t, (run_succ hm k).trans ht, hinv⟩

/-! ### The pseudo-commands (R82 to R84) -/

/-- The answers of `UPDATE d, c` (R82): `Ok` of `c`, then of the remainder after each byte of `d` in turn. -/
def updateAnswers (d : List Byte) (c : Half) : List Response := (d.scanl crcStep c).map fun v => .ok v.toNat

theorem updateAnswers_cons (b : Byte) (d : List Byte) (c : Half) :
    updateAnswers (b :: d) c = .ok c.toNat :: updateAnswers d (crcStep c b) := by
  simp [updateAnswers]

theorem updateAnswers_length (d : List Byte) (c : Half) : (updateAnswers d c).length = d.length + 1 := by
  simp [updateAnswers]

theorem updateAnswers_getLast? (d : List Byte) (c : Half) :
    (updateAnswers d c).getLast? = some (.ok (crcUpdate d c).toNat) := by
  induction d generalizing c with
  | nil => rfl
  | cons b d ih => rw [updateAnswers_cons, List.getLast?_cons, ih]; rfl

/-- A run that begins by issuing a legal command goes on from the state that command leaves. -/
theorem run_issue {s t : State} {i : Instr} {rest : List HostAction} (hi : i.wf = true)
    (h : exec i { s with host := rest } = .next t) (k : Nat) :
    core.run (k + 1) { s with host := issue i :: rest } = core.run k t := by
  have hstep : step { s with host := issue i :: rest } = exec i { s with host := rest } :=
    (step_command rfl).trans (runCommand_of_decode (decode_encode hi) _)
  exact run_succ (hstep.trans h) k

/-- CRC.BYTE on each byte in turn: `l` is RESP up to the answer that holds the present CRC. -/
theorem run_crcBytes (d : List Byte) (s : State) (l : List Response) (rest : List HostAction) :
    core.run d.length
        { s with resp := l ++ [.ok s.crc.toNat], host := d.map (fun b => issue (.crcByte b)) ++ rest } =
      .next { s with crc := crcUpdate d s.crc, resp := l ++ updateAnswers d s.crc, host := rest } := by
  induction d generalizing s l with
  | nil => rfl
  | cons b d ih =>
    refine (run_issue (s := { s with resp := l ++ [.ok s.crc.toNat] }) (i := .crcByte b) rfl rfl d.length).trans ?_
    rw [updateAnswers_cons, List.append_cons l _ (updateAnswers d _)]
    exact ih (s.setCrc (crcStep s.crc b)) (l ++ [.ok s.crc.toNat])

/-- Settles O17: after the first command CRC is the start value and the last answer holds it; each CRC.BYTE keeps that
for the updated remainder. -/
theorem pseudoCommandsComputeUpdate : Obligations.PseudoCommandsComputeUpdate := by
  refine ⟨fun d c0 s rest => ?_, fun d s rest => ?_, fun s rest => run_issue (s := s) (i := .rdreg 0#8) rfl rfl 0⟩
  · exact ⟨updateAnswers d c0, updateAnswers_length d c0, updateAnswers_getLast? d c0,
      (run_issue (s := s) (i := .crcLoad c0) rfl rfl d.length).trans
        (run_crcBytes d (s.setCrc c0) s.resp rest)⟩
  · exact ⟨updateAnswers d crcInitValue, updateAnswers_length d _, updateAnswers_getLast? d _,
      (run_issue (s := s) (i := .crcInit) rfl rfl d.length).trans
        (run_crcBytes d (s.setCrc crcInitValue) s.resp rest)⟩

end Sys2Proof.Proofs

/-! # The CRC16 Engine (40_crc_engine.md) -/

namespace Sys2Proof.Proofs

open Sys2Proof.Machine Sys2Proof.Laws

/-! ### The table and the bit-by-bit reference (R91, R93) -/

/-- TABLE, entry by entry against the reference: the 256 printed values are compared with the 256 computed ones. -/
theorem table_eq_map_stepBits : TABLE = (List.range 256).map fun i => stepBits 0#16 (BitVec.ofNat 8 i) := by
  decide +kernel

theorem tableAt_eq_stepBits (i : Byte) : tableAt i = stepBits 0#16 i := by
  simp [tableAt, table_eq_map_stepBits]

/-- From the remainder 0 the reference step is linear over XOR in its byte. -/
theorem stepBits_zero_xor (a b : Byte) : stepBits 0#16 (a ^^^ b) = stepBits 0#16 a ^^^ stepBits 0#16 b := by
  simp only [stepBits, BitVec.zero_xor, BitVec.setWidth_xor, shiftTimes_xor]

/-- Settles O10: the entries are the reference's remainders, so that its linearity is TABLE's. -/
theorem tableHoldsTheRemainders : Obligations.TableHoldsTheRemainders := by
  refine ⟨table_length, tableAt_eq_stepBits, by decide +kernel, by decide +kernel, fun a b => ?_⟩
  simp only [tableAt_eq_stepBits, stepBits_zero_xor]

/-! ### The table-driven step is the reference step (R90, R91) -/

/-- Where the low `k` bits are 0 no shift meets the polynomial. -/
theorem shiftTimes_of_low_bits_zero {k : Nat} {r : Half} (h : ∀ i < k, r.getLsbD i = false) :
    shiftTimes k r = r >>> k := by
  induction k generalizing r with
  | zero => simp [shiftTimes]
  | succ k ih =>
    have hfirst : shiftOnce r = r >>> 1 := by
      simp only [shiftOnce, h 0 (Nat.succ_pos k), Bool.false_eq_true, if_false]
    have hrest : ∀ i < k, (r >>> 1).getLsbD i = false := fun i hi => by
      rw [BitVec.getLsbD_ushiftRight]
      exact h (1 + i) (by omega)
    rw [shiftTimes, hfirst, ih hrest, ← BitVec.shiftRight_add, Nat.add_comm]

/-- A value is its low byte and its bits from 8 on. -/
theorem low_byte_xor_high_byte (r : Half) : (r.setWidth 8).setWidth 16 ^^^ (r &&& 0xFF00#16) = r := by
  apply BitVec.eq_of_getLsbD_eq
  intro i hi
  interval_cases i <;> simp

/-- Eight shifts replace the low byte by its own remainder and move the high byte down: the identity on which the
table-driven algorithm rests. -/
theorem shiftTimes_eight (r : Half) : shiftTimes 8 r = stepBits 0#16 (r.setWidth 8) ^^^ (r >>> 8) := by
  have hlow : ∀ i < 8, (r &&& 0xFF00#16).getLsbD i = false := by
    intro i hi
    interval_cases i <;> simp
  have hhigh : (r &&& 0xFF00#16) >>> 8 = r >>> 8 := by
    ext i hi
    interval_cases i <;> simp
  calc shiftTimes 8 r
      = shiftTimes 8 ((r.setWidth 8).setWidth 16 ^^^ (r &&& 0xFF00#16)) := by rw [low_byte_xor_high_byte]
    _ = shiftTimes 8 ((r.setWidth 8).setWidth 16) ^^^ (r >>> 8) := by
        rw [shiftTimes_xor, shiftTimes_of_low_bits_zero hlow, hhigh]
    _ = stepBits 0#16 (r.setWidth 8) ^^^ (r >>> 8) := by rw [stepBits, BitVec.zero_xor]

/-- A byte does not reach the high byte of the remainder. -/
theorem xor_byte_ushiftRight (crc : Half) (b : Byte) : (crc ^^^ b.setWidth 16) >>> 8 = crc >>> 8 := by
  have hb : (b.setWidth 16 : Half) >>> 8 = 0#16 := by
    ext i hi
    simp
  rw [BitVec.ushiftRight_xor_distrib, hb, BitVec.xor_zero]

theorem crcStep_eq_stepBits (crc : Half) (b : Byte) : crcStep crc b = stepBits crc b := by
  rw [stepBits, shiftTimes_eight, xor_byte_ushiftRight, ← tableAt_eq_stepBits, crcStep, tableIndex]

/-- The index of R90, as the masked remainder. -/
theorem and_0xFF_toNat (crc : Half) (b : Byte) :
    ((crc ^^^ b.setWidth 16) &&& 0xFF#16).toNat = (tableIndex crc b).toNat := by
  rw [tableIndex, BitVec.toNat_setWidth, BitVec.toNat_and]
  exact Nat.and_two_pow_sub_one_eq_mod _ 8

/-- The lookup at an 8-bit index succeeds (R50). -/
theorem table_getElem? (i : Byte) : TABLE[i.toNat]? = some (tableAt i) :=
  List.getElem?_eq_getElem _

/-- Settles O9: the masked index is the model's 8-bit index, and 16 bits are not changed by their mask. -/
theorem crcStepFormula : Obligations.CrcStepFormula := by
  intro crc b
  refine ⟨tableAt (tableIndex crc b), ?_, BitVec.and_allOnes.symm⟩
  rw [and_0xFF_toNat, table_getElem?]

/-! ### Update and Checksum (R94, R95) -/

theorem crcUpdate_eq_foldl (d : List Byte) (c : Half) : crcUpdate d c = d.foldl crcStep c := by
  induction d generalizing c with
  | nil => rfl
  | cons b d ih => exact ih (crcStep c b)

/-- Settles O11: the steps agree, so that the folds of the two agree. -/
theorem checksumMatchesTheBitwiseReference : Obligations.ChecksumMatchesTheBitwiseReference := by
  refine ⟨crcStep_eq_stepBits, fun d => ?_⟩
  have hstep : crcStep = stepBits := funext₂ crcStep_eq_stepBits
  rw [checksum, crcUpdate_eq_foldl, hstep, crcInitValue]

/-- Settles O12: Update is a left fold, and a fold over a concatenation is the fold of the second piece from the result
of the first. -/
theorem updateFoldsInOrder : Obligations.UpdateFoldsInOrder := by
  refine ⟨crcUpdate_eq_foldl, fun _ => rfl, fun d1 d2 c => ?_, fun _ => rfl, rfl⟩
  simp only [crcUpdate_eq_foldl, List.foldl_append]

/-! ### The commands (R96 to R98) -/

/-- A word whose opcode selects a format with must-be-zero bits `mbz`, one of which is 1, is illegal (R75(b)). -/
theorem not_decodes_of_mbz {w mbz : CmdWord} {i : Instr} (hd : decode w = ifZero mbz w i) (hz : w &&& mbz ≠ 0#32) :
    ¬ ∃ j, decode w = .ok j := by
  rintro ⟨j, hj⟩
  exact hz (ifZero_eq_ok_iff.1 (hd.symm.trans hj)).1

/-- Settles O14: the must-be-zero bits are 23:16, and the state's update is the one R96 names. -/
theorem crcLoadEffect : Obligations.CrcLoadEffect := by
  refine ⟨fun v => decode_encode (i := .crcLoad v) rfl, fun w hop hz => ?_, fun _ _ => rfl, fun _ => rfl⟩
  have hop : opField w = 0x01#8 := (opField_eq_iff w _).2 hop
  exact not_decodes_of_mbz (i := .crcLoad (imm16Field w)) (by simp [decode, hop]) hz

/-- Settles O15: the must-be-zero bits are 23:0, and the state's update is the one R97 names. -/
theorem crcInitEffect : Obligations.CrcInitEffect := by
  refine ⟨decode_encode (i := .crcInit) rfl, fun w hop hz => ?_, fun _ => rfl⟩
  have hop : opField w = 0x02#8 := (opField_eq_iff w _).2 hop
  exact not_decodes_of_mbz (i := .crcInit) (by simp [decode, hop]) hz

/-- From the remainder 0 a byte's step is its entry of TABLE. -/
theorem crcStep_zero (i : Byte) : crcStep 0#16 i = tableAt i := by
  rw [crcStep_eq_stepBits, tableAt_eq_stepBits]

/-- Settles O16: the must-be-zero bits are 23:8, the state's update is the one R98 names, and the numbers of R98 are
evaluated. -/
theorem crcByteEffect : Obligations.CrcByteEffect := by
  refine ⟨fun b => decode_encode (i := .crcByte b) rfl, fun w hop hz => ?_, fun _ _ => rfl, by decide +kernel,
    by decide +kernel, crcStep_zero, by decide +kernel, by decide +kernel⟩
  have hop : opField w = 0x03#8 := (opField_eq_iff w _).2 hop
  exact not_decodes_of_mbz (i := .crcByte (imm8Field w)) (by simp [decode, hop]) hz

end Sys2Proof.Proofs

/-! # The commands of the Frame Reader (41_frame_reader.md) -/

namespace Sys2Proof.Proofs

open Sys2Proof.Machine Sys2Proof.Laws

/-! ### Opening and closing (R111, R116) -/

theorem exec_frOpen_absent (be : Bool) (n : Half) {s : State} (h : s.src = none) :
    exec (.frOpen be n) s = .next (((s.beginOpen be n).openError .io).respond (.error 0x80#8 0#8)) := by
  simp only [exec, execFrOpen, h, ErrKind.code]

theorem exec_frOpen_odd (be : Bool) (n : Half) {s : State} {bytes : List Byte} (h : s.src = some bytes)
    (hodd : bytes.length % 2 ≠ 0) :
    exec (.frOpen be n) s = .next (((s.beginOpen be n).openError .format).respond (.error 0x81#8 0#8)) := by
  simp only [exec, execFrOpen, h, if_pos hodd, ErrKind.code]

theorem exec_frOpen_even (be : Bool) (n : Half) {s : State} {bytes : List Byte} (h : s.src = some bytes)
    (heven : bytes.length % 2 = 0) :
    exec (.frOpen be n) s = .next (((s.beginOpen be n).snapshot bytes).respond (.ok (bytes.length / 2))) := by
  simp only [exec, execFrOpen, h, heven, ne_eq, not_true_eq_false, if_false]

/-- Settles O18, by the branches of FR.OPEN: no source, a source of odd length, a source of even length. -/
theorem openEffect : Obligations.OpenEffect :=
  ⟨fun n => ⟨decode_encode (i := .frOpen false n) rfl, decode_encode (i := .frOpen true n) rfl⟩,
    fun be n _ hs => exec_frOpen_absent be n hs,
    fun be n _ _ hs hodd => exec_frOpen_odd be n hs (by omega),
    fun be n _ _ hs heven => exec_frOpen_even be n hs heven⟩

/-- An attempt to read the next frame that ends in anything but a Frame is all that FR.NEXT and FR.ALL do. -/
theorem exec_of_nextCase {i : Instr} {s t : State} {r : Response} (hi : i = .frNext ∨ i = .frAll)
    (hr : s.rstate = .reading) (h : NextCase s r t) (hn : r.isFrame = false) :
    exec i s = .next (t.respond r) := by
  rcases hi with rfl | rfl
  · exact exec_frNext_of_case hr h
  · exact exec_frAll_of_cases hr (.none s) h hn

/-- The reading commands are FR.READW and the two that read frames. -/
theorem isReadCommand_eq_true_iff (i : Instr) :
    isReadCommand i = true ↔ (∃ count, i = .frReadw count) ∨ i = .frNext ∨ i = .frAll := by
  cases i <;> simp [isReadCommand]

/-- Settles O19: the first test of each reading command finds the handle closed. -/
theorem closeEffect : Obligations.CloseEffect := by
  refine ⟨decode_encode (i := .frClose) rfl, fun _ => rfl, fun i s hi hr ho => ?_⟩
  have hclosed : ({ s with err := 0x0280#16, rstate := .failed, hopen := false } : State) =
      { s with err := 0x0280#16, rstate := .failed } := by rw [← ho]
  rcases (isReadCommand_eq_true_iff i).1 hi with ⟨count, rfl⟩ | hi
  · have h := exec_frReadw_of_case (count := count) hr (.closed ho)
    rwa [hclosed] at h
  · have h := exec_of_nextCase hi hr (.closed ho) rfl
    rwa [hclosed] at h

/-! ### Outside Reading (R117) -/

/-- Outside Reading a reading command gives the gate's answer and does nothing else. -/
theorem exec_read_of_gate {i : Instr} {s : State} {r : Response} (hi : isReadCommand i = true)
    (hg : s.readerGate = some r) : exec i s = .next (s.respond r) := by
  rcases (isReadCommand_eq_true_iff i).1 hi with ⟨count, rfl⟩ | rfl | rfl <;> exact throughGate_of_not_reading hg

/-- The kind in ERR as a mask of its low byte (R31). -/
theorem errKind_setWidth (s : State) : s.errKind.setWidth 16 = s.err &&& 0xFF#16 := by
  ext i hi
  interval_cases i <;> simp [State.errKind]

theorem errKind_eq_iff (s : State) (kind : Byte) : s.errKind = kind ↔ s.err &&& 0xFF#16 = kind.setWidth 16 := by
  rw [← errKind_setWidth]
  constructor
  · intro h
    rw [h]
  · intro h
    have h8 := congrArg (BitVec.setWidth 8) h
    simpa [BitVec.setWidth_setWidth_of_le] using h8

theorem errKind_eq_setWidth (s : State) : s.errKind = s.err.setWidth 8 :=
  (BitVec.setWidth_eq_extractLsb' (by decide)).symm

theorem errCause_eq_setWidth (s : State) : s.errCause = (s.err >>> 8).setWidth 8 := by
  ext i hi
  simp [State.errCause]

/-- Settles O24: the gate has one answer in each RSTATE but Reading, and in Failed it asks for the kind in ERR. -/
theorem gateAnswersOutsideReading : Obligations.GateAnswersOutsideReading := by
  intro i s hi
  have hkind : s.errKind = 0x82#8 ↔ s.err &&& 0xFF#16 = 0x82#16 := errKind_eq_iff s 0x82#8
  have answer {r : Response} (hg : s.readerGate = some r) : exec i s = .next (s.respond r) :=
    exec_read_of_gate hi hg
  refine ⟨fun hr => ?_, fun hr => ?_, fun hr he => ?_, fun hr he => ?_⟩
  · exact answer ((readerGate_eq_some_iff s _).2 (.inl ⟨hr, rfl⟩))
  · exact answer ((readerGate_eq_some_iff s _).2 (.inr (.inl ⟨hr, rfl⟩)))
  · exact answer ((readerGate_eq_some_iff s _).2 (.inr (.inr ⟨hr, (if_pos (hkind.2 he)).symm⟩)))
  · have hlatched : s.latchedError = .error s.errKind s.errCause := if_neg (fun h => he (hkind.1 h))
    rw [errKind_eq_setWidth, errCause_eq_setWidth] at hlatched
    exact answer ((readerGate_eq_some_iff s _).2 (.inr (.inr ⟨hr, hlatched.symm⟩)))

/-! ### FR.READW (R112) -/

/-- Settles O26: the words from the cursor on exist, and word `k` of them is `Word(CUR + k)`. -/
theorem readwReadsTheWords : Obligations.ReadwReadsTheWords := by
  intro s count hwf hr ho hi hl
  obtain ⟨ws, hws⟩ := wordsFrom_isSome_of_le hwf hl
  have hlen := wordsFrom_length hws
  refine ⟨ws, exec_frReadw_of_case hr (.words ws ho hi hl hws), hlen, fun k hk => ?_⟩
  have hget : ws[k]? = some ws[k] := List.getElem?_eq_getElem (hlen ▸ hk)
  have hword : s.word (s.cur + k) = some ws[k] := (wordsFrom_getElem? hws hk).symm.trans hget
  obtain ⟨b0, b1, hb, hval⟩ := (word_eq_some_iff s _ _).1 hword
  exact ⟨b0, b1, hb, hget.trans (congrArg some hval)⟩

/-- Settles O27: the draw is tested before the words left are counted. -/
theorem readwFailures : Obligations.ReadwFailures := by
  intro s count hr ho
  exact ⟨fun hi => exec_frReadw_of_case hr (.ioFailure ho hi),
    fun hi hl => exec_frReadw_of_case hr (.truncated ho hi hl)⟩

/-! ### FR.NEXT (R113) -/

/-- A whole frame with its payload words and its checksum word: the words it leaves in BUF, and the payload. -/
theorem wholeFrame_words {s : State} {stored : Half} (hwf : Memory.wf s = true)
    (hl : s.npay.toNat + 1 ≤ s.wlen - s.cur) (hst : s.word (s.cur + s.npay.toNat) = some stored) :
    ∃ ws, s.wordsFrom s.cur s.npay.toNat = some ws ∧
      s.wordsFrom s.cur (s.npay.toNat + 1) = some (ws ++ [stored]) ∧
      payloadBytes s.params.hostBE ws = s.frameImage := by
  obtain ⟨ws, hws⟩ := wordsFrom_isSome_of_le hwf (show s.npay.toNat ≤ s.wlen - s.cur by omega)
  exact ⟨ws, hws, (wordsFrom_append s _ _ ws stored).2 ⟨hws, hst⟩, payloadBytes_eq_frameImage hws⟩

/-- Settles O28: the payload FR.NEXT checks is the frame's image. -/
theorem nextDeliversAValidFrame : Obligations.NextDeliversAValidFrame := by
  intro s a0 a1 c0 c1 hwf hr ho hi hl ha hs hc hsum
  have hfirst := (word_eq_some_iff s _ _).2 ⟨a0, a1, ha, rfl⟩
  have hst := (word_eq_some_iff s _ _).2 ⟨c0, c1, hc, rfl⟩
  obtain ⟨ws, hws, hall, himage⟩ := wholeFrame_words hwf hl hst
  rw [← himage] at hsum ⊢
  exact ⟨_, hall, exec_frNext_of_case hr (.valid _ ws _ ho hi hl hfirst hs hws hst hsum)⟩

/-- Settles O29: the payload FR.NEXT checks is the frame's image. -/
theorem nextReportsAMismatch : Obligations.NextReportsAMismatch := by
  intro s a0 a1 c0 c1 hwf hr ho hi hl ha hs hc hsum
  have hfirst := (word_eq_some_iff s _ _).2 ⟨a0, a1, ha, rfl⟩
  have hst := (word_eq_some_iff s _ _).2 ⟨c0, c1, hc, rfl⟩
  obtain ⟨ws, hws, hall, himage⟩ := wholeFrame_words hwf hl hst
  rw [← himage] at hsum ⊢
  exact ⟨_, hall, exec_frNext_of_case hr (.mismatch _ ws _ ho hi hl hfirst hs hws hst hsum)⟩

/-- The bytes A5 A5 are the sentinel in either declared order (R118). -/
theorem declaredWord_sentinel (be : Bool) : declaredWord be 0xA5#8 0xA5#8 = 0xA5A5#16 := by
  cases be <;> rfl

/-- Settles O30: A5 A5 is the sentinel in both orders, and the sentinel is tested before the frame is measured. -/
theorem sentinelEndsThePass : Obligations.SentinelEndsThePass := by
  intro i s hi hr ho hio hl hb
  have hw : s.word s.cur = some 0xA5A5#16 :=
    (word_eq_some_iff s _ _).2 ⟨_, _, hb, (declaredWord_sentinel s.declBE).symm⟩
  exact exec_of_nextCase hi hr (.sentinelFound ho hio hl hw) rfl

/-- Settles O31, by the tests of `NextFrame` in their order. -/
theorem nextFrameEndings : Obligations.NextFrameEndings := by
  intro i s hi hr ho
  refine ⟨fun hio => ?_, fun hio hl hp => ?_, fun hio hl hp => ?_, fun b0 b1 hio hl hb hs hn => ?_⟩
  · exact exec_of_nextCase hi hr (.ioFailure ho hio) rfl
  · exact exec_of_nextCase hi hr (.noWordLeft ho hio hl hp) rfl
  · exact exec_of_nextCase hi hr (.cleanEnd ho hio hl hp) rfl
  · have hw := (word_eq_some_iff s _ _).2 ⟨b0, b1, hb, rfl⟩
    exact exec_of_nextCase hi hr (.incomplete _ ho hio hl hw hs hn) rfl

/-! ### The transitions of the read pass (R110) -/

/-- FR.READW stays in the pass with words, or fails: bit 7 of an error's status is set (R79). -/
theorem readwCase_transition {count : Nat} {s u : State} {r : Response} (h : ReadwCase count s r u) :
    (u.rstate = s.rstate ∧ ∃ ws, r = .words ws) ∨ (u.rstate = .failed ∧ r.status.getLsbD 7 = true) := by
  cases h with
  | words ws => exact .inl ⟨rfl, ws, rfl⟩
  | closed | ioFailure | truncated => exact .inr ⟨rfl, rfl⟩

/-- `NextFrame` stays in the pass with a Frame, terminates it, or fails. -/
theorem nextCase_transition {s u : State} {r : Response} (h : NextCase s r u) :
    (u.rstate = s.rstate ∧ ∃ p c, r = .frame p c) ∨ (u.rstate = .terminated ∧ r = .endOfStream) ∨
      (u.rstate = .failed ∧ r.status.getLsbD 7 = true) := by
  cases h with
  | valid => exact .inl ⟨rfl, _, _, rfl⟩
  | cleanEnd | sentinelFound => exact .inr (.inl ⟨rfl, rfl⟩)
  | closed | ioFailure | noWordLeft | incomplete => exact .inr (.inr ⟨rfl, rfl⟩)
  | mismatch => exact .inr (.inr ⟨rfl, by simp [Response.status]⟩)

/-- An attempt that ends in no Frame ends the pass. -/
theorem nextCase_ends {s u : State} {r : Response} (h : NextCase s r u) (hn : r.isFrame = false) :
    (u.rstate = .terminated ∧ r = .endOfStream) ∨ (u.rstate = .failed ∧ r.status.getLsbD 7 = true) := by
  rcases nextCase_transition h with ⟨-, p, c, rfl⟩ | h
  · cases hn
  · exact h

/-- FR.OPEN leaves a pass in Reading or none. -/
theorem execCase_open_rstate {i : Instr} {s u : State} {r : Response} (h : ExecCase s i r u)
    (hi : isOpenCommand i = true) : u.rstate = .reading ∨ u.rstate = .idle := by
  cases h with
  | opens => exact .inl rfl
  | openAbsent | openOdd => exact .inr rfl
  | gate hg =>
    cases i with
    | frOpen => cases hg
    | _ => cases hi
  | readw | next | all => cases hi
  | crc _ _ hn | close _ hn | answer _ _ hn => cases hn.symm.trans hi

/-- The parts of the state that only FR.OPEN and, in Reading, a reading command write. -/
structure KeepsPass (s u : State) : Prop where
  rstate : u.rstate = s.rstate
  cur : u.cur = s.cur
  fout : u.fout = s.fout
  ioDraws : u.ioDraws = s.ioDraws
  err : u.err = s.err
  errStored : u.errStored = s.errStored
  errComputed : u.errComputed = s.errComputed
  fcrc : u.fcrc = s.fcrc
  buf : u.buf = s.buf

/-- Short of FR.OPEN, a command that reads no stream, or finds no pass in Reading, leaves the pass alone. -/
theorem execCase_keepsPass {i : Instr} {s u : State} {r : Response} (h : ExecCase s i r u)
    (ho : isOpenCommand i = false) (hp : s.rstate ≠ .reading ∨ isReadCommand i = false) : KeepsPass s u := by
  have outside (hr : s.rstate = .reading) (hi : isReadCommand i = true) : KeepsPass s u :=
    (hp.elim (fun h => h hr) fun h => by simp [hi] at h).elim
  cases h with
  | readw hr | next hr | all hr => exact outside hr rfl
  | openAbsent | openOdd | opens => cases ho
  | gate | crc | close | answer => exact ⟨rfl, rfl, rfl, rfl, rfl, rfl, rfl, rfl, rfl⟩

/-- Settles O43: outside Reading only FR.OPEN writes what a pass has. -/
theorem terminatedAndFailedAbsorb : Obligations.TerminatedAndFailedAbsorb := by
  intro i s t h ho hs
  obtain ⟨r, u, hc, rfl⟩ := exec_cases h
  have hr : s.rstate ≠ .reading := by rcases hs with hs | hs <;> simp [hs]
  have hk := execCase_keepsPass hc ho (.inl hr)
  exact ⟨hk.rstate, hk.cur, hk.fout, hk.ioDraws, hk.err, hk.errStored, hk.errComputed, hk.fcrc, hk.buf⟩

/-- Settles O42, by the ways each command can complete. -/
theorem readPassTransitions : Obligations.ReadPassTransitions := by
  intro i s t h
  obtain ⟨r, u, hc, rfl⟩ := exec_cases h
  refine ⟨execCase_open_rstate (u := u) hc, fun ho hr => (execCase_keepsPass hc ho (.inl hr)).rstate,
    fun hi ho => (execCase_keepsPass hc ho (.inr hi)).rstate, ?_, ?_, ?_⟩
  · rintro hr count rfl
    obtain ⟨r, v, hv, he⟩ := exec_frReadw_cases hr h
    have hresp : v.resp = s.resp := (readwCase_keepsConfig hv).resp
    rw [he, respond_rstate, respond_resp, hresp]
    rcases readwCase_transition hv with ⟨hrs, ws, rfl⟩ | ⟨hrs, hst⟩
    · exact .inl ⟨hrs.trans hr, ws, rfl⟩
    · exact .inr ⟨hrs, r, rfl, hst⟩
  · rintro hr rfl
    obtain ⟨r, v, hv, he⟩ := exec_frNext_cases hr h
    have hresp : v.resp = s.resp := (nextCase_keepsConfig hv).resp
    rw [he, respond_rstate, respond_resp, hresp]
    rcases nextCase_transition hv with ⟨hrs, p, c, rfl⟩ | ⟨hrs, rfl⟩ | ⟨hrs, hst⟩
    · exact .inl ⟨hrs.trans hr, p, c, rfl⟩
    · exact .inr (.inl ⟨hrs, rfl⟩)
    · exact .inr (.inr ⟨hrs, r, rfl, hst⟩)
  · rintro hr rfl
    obtain ⟨fs, m, r, v, hf, hv, hn, -, he⟩ := exec_frAll_cases hr h
    have hresp : v.resp = s.resp := ((framesRead_keepsConfig hf).trans (nextCase_keepsConfig hv)).resp
    rw [he, respond_rstate, respond_resp, hresp]
    rcases nextCase_ends hv hn with ⟨hrs, rfl⟩ | ⟨hrs, hst⟩
    · exact .inl ⟨hrs, rfl⟩
    · exact .inr ⟨hrs, r, rfl, hst⟩

end Sys2Proof.Proofs

/-! # FR.ALL is FR.NEXT repeated (41_frame_reader.md R115, R121) -/

namespace Sys2Proof.Proofs

open Sys2Proof.Machine Sys2Proof.Laws

/-- The answers FR.NEXT gives on a run of Frames. -/
def frameAnswers (fs : List (List Byte × Half)) : List Response := fs.map fun f => .frame f.1 f.2

theorem isFrame_of_mem_frameAnswers {fs : List (List Byte × Half)} {r : Response} (h : r ∈ frameAnswers fs) :
    r.isFrame = true := by
  obtain ⟨f, -, rfl⟩ := List.mem_map.1 h
  rfl

theorem repeatNext_succ {s t : State} (h : exec .frNext s = .next t) (k : Nat) :
    repeatNext (k + 1) s = repeatNext k t := by
  rw [repeatNext, h]

/-- `NextFrame` does the same whatever RESP holds. -/
theorem nextCase_with_resp {s t : State} {r : Response} (h : NextCase s r t) (l : List Response) :
    NextCase { s with resp := l } r { t with resp := l } := by
  have hcrc : ({ t with crc := s.crc, resp := l } : State) = { t with resp := l } := by
    rw [← (nextCase_keepsConfig h).crc]
  exact hcrc ▸ h.with_ports s.crc l

/-- FR.NEXT answers what `NextFrame` answers, after the responses `l` given before. -/
theorem exec_frNext_with_resp {s t : State} {r : Response} (hr : s.rstate = .reading) (h : NextCase s r t)
    (l : List Response) : exec .frNext { s with resp := l } = .next { t with resp := l ++ [r] } :=
  exec_frNext_of_case (s := { s with resp := l }) hr (nextCase_with_resp h l)

/-- FR.NEXT issued once for each Frame of a run and once more: `l` is RESP before the first. -/
theorem repeatNext_of_framesRead {s m t : State} {fs : List (List Byte × Half)} {r : Response}
    (hf : FramesRead s fs m) (h : NextCase m r t) (hr : s.rstate = .reading) (l : List Response) :
    repeatNext (fs.length + 1) { s with resp := l } = .next { t with resp := l ++ frameAnswers fs ++ [r] } := by
  induction hf generalizing l with
  | none s =>
    rw [repeatNext_succ (exec_frNext_with_resp hr h l), frameAnswers, List.map_nil, List.append_nil, List.length_nil,
      repeatNext]
  | @more s s' m p c fs hc _ ih =>
    have hr' : s'.rstate = .reading := by cases hc; exact hr
    rw [List.length_cons, repeatNext_succ (exec_frNext_with_resp hr hc l), ih h hr' (l ++ [Response.frame p c]),
      List.append_assoc l]
    rfl

/-- Settles O34: the loop's Frames and its last answer are those of FR.NEXT issued again and again. -/
theorem allIsRepeatedNext : Obligations.AllIsRepeatedNext := by
  intro s hwf hr
  obtain ⟨r, t, hall⟩ := allFrames_completes hwf s.frameBound
  obtain ⟨fs, m, hf, hc, hle, hlast⟩ := allFrames_eq_ok hall
  have hn := hlast (le_refl _)
  have hresp : t.resp = s.resp := ((framesRead_keepsConfig hf).trans (nextCase_keepsConfig hc)).resp
  have hend : t.rstate ≠ .reading := by
    rcases nextCase_ends hc hn with ⟨h, -⟩ | ⟨h, -⟩ <;> simp [h]
  refine ⟨fs.length, { t with resp := s.resp ++ frameAnswers fs ++ [r] }, frameAnswers fs, r, hle,
    List.length_map _, fun _ => isFrame_of_mem_frameAnswers, hn, repeatNext_of_framesRead hf hc hr s.resp, rfl, hend,
    ?_⟩
  rw [exec_frAll_of_cases hr hf hc hn, State.respond, hresp]

end Sys2Proof.Proofs

/-! # The byte order is invisible (41_frame_reader.md R123(d), 20_memory.md R56) -/

namespace Sys2Proof.Proofs

open Sys2Proof.Machine Sys2Proof.Laws

/-- The same words in the other byte order, declared so. -/
def otherOrder (s : State) : State := { s with stream := exchangePairs s.stream, declBE := !s.declBE }

theorem otherOrder_otherOrder (s : State) : otherOrder (otherOrder s) = s := by
  simp [otherOrder, exchangePairs_exchangePairs]

/-- The first byte read in one order is the second read in the other (R56). -/
theorem declaredWord_not (be : Bool) (b0 b1 : Byte) : declaredWord (!be) b0 b1 = declaredWord be b1 b0 := by
  cases be <;> rfl

theorem hasWordBytes_otherOrder {s : State} {i : Nat} {b0 b1 : Byte} (h : s.hasWordBytes i b0 b1) :
    (otherOrder s).hasWordBytes i b1 b0 := by
  obtain ⟨h0, h1⟩ := h
  obtain ⟨hlt, -⟩ := List.getElem?_eq_some_iff.1 h1
  obtain ⟨e0, e1⟩ := exchangePairs_pair s.stream i hlt
  exact ⟨e0.trans h1, e1.trans h0⟩

theorem word_otherOrder_of_some {s : State} {i : Nat} {w : Half} (h : s.word i = some w) :
    (otherOrder s).word i = some w := by
  obtain ⟨b0, b1, hb, rfl⟩ := (word_eq_some_iff s i w).1 h
  exact (word_eq_some_iff _ i _).2 ⟨b1, b0, hasWordBytes_otherOrder hb, (declaredWord_not s.declBE b1 b0).symm⟩

theorem wordsFrom_otherOrder_of_some {s : State} {p n : Nat} {ws : List Half} (h : s.wordsFrom p n = some ws) :
    (otherOrder s).wordsFrom p n = some ws := by
  induction n generalizing p ws with
  | zero => exact h
  | succ n ih =>
    obtain ⟨w, rest, hw, hr, rfl⟩ := (wordsFrom_succ_eq_some s p n ws).1 h
    exact (wordsFrom_succ_eq_some _ p n _).2 ⟨w, rest, word_otherOrder_of_some hw, ih hr, rfl⟩

/-! ### Each procedure reads words, so that the order does not reach it -/

theorem readwCase_otherOrder {count : Nat} {s u : State} {r : Response} (h : ReadwCase count s r u) :
    ReadwCase count (otherOrder s) r (otherOrder u) := by
  cases h with
  | closed ho => exact .closed ho
  | ioFailure ho hi => exact .ioFailure ho hi
  | truncated ho hi hl => exact .truncated ho hi hl
  | words ws ho hi hl hw => exact .words ws ho hi hl (wordsFrom_otherOrder_of_some hw)

theorem nextCase_otherOrder {s u : State} {r : Response} (h : NextCase s r u) :
    NextCase (otherOrder s) r (otherOrder u) := by
  cases h with
  | closed ho => exact .closed ho
  | ioFailure ho hi => exact .ioFailure ho hi
  | noWordLeft ho hi hl hp => exact .noWordLeft ho hi hl hp
  | cleanEnd ho hi hl hp => exact .cleanEnd ho hi hl hp
  | sentinelFound ho hi hl hw => exact .sentinelFound ho hi hl (word_otherOrder_of_some hw)
  | incomplete w0 ho hi hl hw hs hn => exact .incomplete w0 ho hi hl (word_otherOrder_of_some hw) hs hn
  | valid w0 ws stored ho hi hl hw hs hws hst hc =>
    exact .valid w0 ws stored ho hi hl (word_otherOrder_of_some hw) hs (wordsFrom_otherOrder_of_some hws)
      (word_otherOrder_of_some hst) hc
  | mismatch w0 ws stored ho hi hl hw hs hws hst hc =>
    exact .mismatch w0 ws stored ho hi hl (word_otherOrder_of_some hw) hs (wordsFrom_otherOrder_of_some hws)
      (word_otherOrder_of_some hst) hc

theorem framesRead_otherOrder {s m : State} {fs : List (List Byte × Half)} (h : FramesRead s fs m) :
    FramesRead (otherOrder s) fs (otherOrder m) := by
  induction h with
  | none s => exact .none _
  | more hc _ ih => exact .more (nextCase_otherOrder hc) ih

/-- A reading command that completes does the same in the other order. -/
theorem exec_read_otherOrder {i : Instr} {s t : State} (hi : isReadCommand i = true) (h : exec i s = .next t) :
    exec i (otherOrder s) = .next (otherOrder t) := by
  obtain ⟨r, u, hc, rfl⟩ := exec_cases h
  cases hc with
  | gate _ hg => exact exec_read_of_gate (s := otherOrder s) hi hg
  | readw hr hc => exact exec_frReadw_of_case (s := otherOrder s) hr (readwCase_otherOrder hc)
  | next hr hc => exact exec_frNext_of_case (s := otherOrder s) hr (nextCase_otherOrder hc)
  | all hr hf hc hn =>
    exact exec_frAll_of_cases (s := otherOrder s) hr (framesRead_otherOrder hf) (nextCase_otherOrder hc) hn
  | openAbsent | openOdd | opens => cases hi
  | crc _ hn | close hn | answer _ hn => cases hn.symm.trans hi

/-- A reading command completes or meets an address that STREAM does not have; it is never refused. -/
theorem exec_read_next_or_fault {i : Instr} (hi : isReadCommand i = true) (s : State) :
    (∃ t, exec i s = .next t) ∨ exec i s = .fault .streamAddress := by
  have gated (body : State → Except Fault (Response × State)) :
      (∃ t, throughGate body s = .next t) ∨ throughGate body s = .fault .streamAddress := by
    unfold throughGate
    cases s.readerGate with
    | some r => exact .inl ⟨_, rfl⟩
    | none =>
      cases body s with
      | ok q => exact .inl ⟨_, rfl⟩
      | error f => exact .inr rfl
  rcases (isReadCommand_eq_true_iff i).1 hi with ⟨count, rfl⟩ | rfl | rfl <;> exact gated _

/-- Settles O36: what completes in one order completes alike in the other, and since exchanging twice changes nothing,
what faults in one faults in the other. -/
theorem byteOrderIsInvisible : Obligations.ByteOrderIsInvisible := by
  intro i s hi
  change exec i (otherOrder s) = mapNext otherOrder (exec i s)
  rcases exec_read_next_or_fault hi s with ⟨t, ht⟩ | hf
  · rw [ht, exec_read_otherOrder hi ht, mapNext]
  · rcases exec_read_next_or_fault hi (otherOrder s) with ⟨t, ht⟩ | hf'
    · have hback := exec_read_otherOrder hi ht
      rw [otherOrder_otherOrder, hf] at hback
      cases hback
    · rw [hf, hf', mapNext]

end Sys2Proof.Proofs

/-! # One changed byte (41_frame_reader.md R123(b)) -/

namespace Sys2Proof.Proofs

open Sys2Proof.Machine Sys2Proof.Laws

/-! ### The remainder (40_crc_engine.md R94) -/

theorem crcStep_injective_crc {c d : Half} {b : Byte} (h : crcStep c b = crcStep d b) : c = d := by
  simp only [crcStep_eq_stepBits] at h
  exact stepBits_injective_crc h

theorem crcStep_injective_byte {c : Half} {a b : Byte} (h : crcStep c a = crcStep c b) : a = b := by
  simp only [crcStep_eq_stepBits] at h
  exact stepBits_injective_byte h

/-- The same bytes keep different remainders different. -/
theorem crcUpdate_injective {d : List Byte} {a b : Half} (h : crcUpdate d a = crcUpdate d b) : a = b := by
  induction d generalizing a b with
  | nil => exact h
  | cons x d ih => exact crcStep_injective_crc (ih h)

/-- Settles O13: the two sequences have one remainder before the byte, different ones after it, and the bytes that
follow keep them different. -/
theorem oneChangedByteChangesTheRemainder : Obligations.OneChangedByteChangesTheRemainder := by
  intro before after x y c hxy h
  obtain ⟨-, -, happend, -⟩ := updateFoldsInOrder
  rw [happend, happend] at h
  exact hxy (crcStep_injective_byte (crcUpdate_injective (d := after) h))

/-- The remainder of a sequence with byte `i` replaced by another value. -/
theorem checksum_set_ne {l : List Byte} {i : Nat} {x y : Byte} (h : l[i]? = some y) (hne : y ≠ x) :
    checksum (l.set i x) ≠ checksum l := by
  obtain ⟨hi, rfl⟩ := List.getElem?_eq_some_iff.1 h
  have hset := List.set_eq_take_append_cons_drop (l := l) (i := i) (a := x)
  rw [if_pos hi] at hset
  have hsplit : l = l.take i ++ l[i] :: l.drop (i + 1) := by simp
  rw [hset]
  conv_rhs => rw [hsplit]
  exact oneChangedByteChangesTheRemainder _ _ x l[i] crcInitValue hne.symm

/-! ### The stream -/

/-- `s` with the stream byte at address `a` replaced. -/
def withByte (s : State) (a : Nat) (x : Byte) : State := { s with stream := s.stream.set a x }

theorem withByte_streamByte_same {s : State} {a : Nat} {x y : Byte} (h : s.streamByte a = some y) :
    (withByte s a x).streamByte a = some x := by
  obtain ⟨ha, -⟩ := List.getElem?_eq_some_iff.1 h
  exact List.getElem?_set_self ha

theorem withByte_streamByte_other (s : State) {a b : Nat} (x : Byte) (h : a ≠ b) :
    (withByte s a x).streamByte b = s.streamByte b := List.getElem?_set_ne h

/-- A word that does not hold the byte at `a` is not changed. -/
theorem withByte_word_other (s : State) {a i : Nat} (x : Byte) (h : a < 2 * i ∨ 2 * i + 1 < a) :
    (withByte s a x).word i = s.word i := by
  apply Option.ext
  intro w
  simp only [word_eq_some_iff, State.hasWordBytes, withByte_streamByte_other s x (show a ≠ 2 * i by omega),
    withByte_streamByte_other s x (show a ≠ 2 * i + 1 by omega)]
  rfl

/-- Every byte up to a word that exists does. -/
theorem streamByte_exists_of_word {s : State} {a i : Nat} {w : Half} (hw : s.word i = some w) (ha : a ≤ 2 * i) :
    ∃ y, s.streamByte a = some y := by
  obtain ⟨b0, b1, ⟨h0, -⟩, -⟩ := (word_eq_some_iff s i w).1 hw
  obtain ⟨hlt, -⟩ := List.getElem?_eq_some_iff.1 h0
  exact ⟨s.stream[a], List.getElem?_eq_getElem (ha.trans_lt hlt)⟩

/-- A word of the declared order determines its two bytes. -/
theorem declaredWord_injective {be : Bool} {b0 b1 c0 c1 : Byte}
    (h : declaredWord be b0 b1 = declaredWord be c0 c1) : b0 = c0 ∧ b1 = c1 := by
  have himage := congrArg (hostBytes be) h
  simpa [hostBytes_declaredWord] using himage

/-- The word that holds the byte at `a` takes another value when that byte does. -/
theorem withByte_word_ne {s : State} {a i : Nat} {x : Byte} {w : Half} (hw : s.word i = some w)
    (ha : a = 2 * i ∨ a = 2 * i + 1) (hx : s.streamByte a ≠ some x) :
    ∃ w', (withByte s a x).word i = some w' ∧ w' ≠ w := by
  obtain ⟨b0, b1, ⟨h0, h1⟩, rfl⟩ := (word_eq_some_iff s i w).1 hw
  rcases ha with rfl | rfl
  · refine ⟨_, (word_eq_some_iff _ _ _).2 ⟨x, b1, ⟨withByte_streamByte_same h0,
      (withByte_streamByte_other s x (by omega)).trans h1⟩, rfl⟩, fun h => ?_⟩
    exact hx (h0.trans (congrArg some (declaredWord_injective h).1.symm))
  · refine ⟨_, (word_eq_some_iff _ _ _).2 ⟨b0, x, ⟨(withByte_streamByte_other s x (by omega)).trans h0,
      withByte_streamByte_same h1⟩, rfl⟩, fun h => ?_⟩
    exact hx (h1.trans (congrArg some (declaredWord_injective h).2.symm))

theorem withByte_word_exists {s : State} {a i : Nat} {x : Byte} {w : Half} (hw : s.word i = some w)
    (hx : s.streamByte a ≠ some x) : ∃ w', (withByte s a x).word i = some w' := by
  by_cases ha : a = 2 * i ∨ a = 2 * i + 1
  · obtain ⟨w', hw', -⟩ := withByte_word_ne hw ha hx
    exact ⟨w', hw'⟩
  · exact ⟨w, (withByte_word_other s x (by omega)).trans hw⟩

theorem withByte_wordsFrom_exists {s : State} {a p n : Nat} {x : Byte} {ws : List Half}
    (h : s.wordsFrom p n = some ws) (hx : s.streamByte a ≠ some x) :
    ∃ ws', (withByte s a x).wordsFrom p n = some ws' := by
  induction n generalizing p ws with
  | zero => exact ⟨[], rfl⟩
  | succ n ih =>
    obtain ⟨w, rest, hw, hr, -⟩ := (wordsFrom_succ_eq_some s p n ws).1 h
    obtain ⟨w', hw'⟩ := withByte_word_exists hw hx
    obtain ⟨rest', hr'⟩ := ih hr
    exact ⟨w' :: rest', (wordsFrom_succ_eq_some _ p n _).2 ⟨w', rest', hw', hr', rfl⟩⟩

/-! ### The payload -/

/-- Replacing a byte and then exchanging pairs replaces that byte where the exchange puts it. -/
theorem exchangePairs_set (l : List Byte) (i : Nat) (x : Byte) :
    ∃ j, exchangePairs (l.set i x) = (exchangePairs l).set j x ∧ (exchangePairs l)[j]? = l[i]? := by
  fun_induction exchangePairs l generalizing i with
  | case1 a b rest ih =>
    match i with
    | 0 => exact ⟨1, rfl, rfl⟩
    | 1 => exact ⟨0, rfl, rfl⟩
    | i + 2 =>
      obtain ⟨j, hset, hget⟩ := ih i
      exact ⟨j + 2, congrArg (b :: a :: ·) hset, hget⟩
  | case2 a => exact ⟨i, by cases i <;> rfl, rfl⟩
  | case3 => exact ⟨i, rfl, rfl⟩

/-- The bytes of the frame at the cursor, as they stand in the stream. -/
def rawPayload (s : State) : List Byte := (s.stream.drop (2 * s.cur)).take (2 * s.npay.toNat)

theorem frameImage_eq (s : State) :
    s.frameImage = if s.swap then exchangePairs (rawPayload s) else rawPayload s := rfl

theorem withByte_rawPayload {s : State} {a : Nat} (x : Byte) (h : 2 * s.cur ≤ a) :
    rawPayload (withByte s a x) = (rawPayload s).set (a - 2 * s.cur) x := by
  simp [rawPayload, withByte, List.drop_set, List.take_set, Nat.not_lt.2 h]

/-- A frame's image with a byte of the payload replaced. -/
theorem withByte_frameImage {s : State} {a : Nat} (x : Byte) (hlo : 2 * s.cur ≤ a)
    (hhi : a < 2 * (s.cur + s.npay.toNat)) :
    ∃ j, (withByte s a x).frameImage = s.frameImage.set j x ∧ s.frameImage[j]? = s.streamByte a := by
  have hget : (rawPayload s)[a - 2 * s.cur]? = s.streamByte a := by
    rw [rawPayload, List.getElem?_take_of_lt (by omega), List.getElem?_drop, Nat.add_sub_cancel' hlo,
      State.streamByte]
  rw [frameImage_eq, frameImage_eq, withByte_rawPayload x hlo, show (withByte s a x).swap = s.swap from rfl]
  cases s.swap with
  | false => exact ⟨a - 2 * s.cur, rfl, hget⟩
  | true =>
    obtain ⟨j, hset, hj⟩ := exchangePairs_set (rawPayload s) (a - 2 * s.cur) x
    exact ⟨j, hset, hj.trans hget⟩

/-- A byte past the payload is no part of the frame's image. -/
theorem withByte_frameImage_of_le {s : State} {a : Nat} (x : Byte) (h : 2 * (s.cur + s.npay.toNat) ≤ a) :
    (withByte s a x).frameImage = s.frameImage := by
  have hlen : (rawPayload s).length ≤ a - 2 * s.cur :=
    (List.length_take_le _ _).trans (by omega)
  rw [frameImage_eq, frameImage_eq, withByte_rawPayload x (by omega), List.set_eq_of_length_le hlen]
  rfl

/-! ### A frame with one byte changed -/

/-- One changed byte of a valid frame makes its checksum and its stored word differ. -/
theorem withByte_checksum_ne {s : State} {a : Nat} {x : Byte} {stored stored' : Half} (hlo : 2 * s.cur ≤ a)
    (hhi : a < 2 * (s.cur + s.npay.toNat + 1)) (hx : s.streamByte a ≠ some x)
    (hst : s.word (s.cur + s.npay.toNat) = some stored)
    (hst' : (withByte s a x).word (s.cur + s.npay.toNat) = some stored') (hsum : checksum s.frameImage = stored) :
    checksum (withByte s a x).frameImage ≠ stored' := by
  rcases Nat.lt_or_ge a (2 * (s.cur + s.npay.toNat)) with hp | hp
  · obtain ⟨j, hset, hj⟩ := withByte_frameImage x hlo hp
    have hsame : stored' = stored := by
      rw [withByte_word_other s x (.inl hp), hst] at hst'
      exact (Option.some.inj hst').symm
    obtain ⟨y, hy⟩ := streamByte_exists_of_word hst hp.le
    rw [hset, hsame, ← hsum]
    exact checksum_set_ne (hj.trans hy) fun h => hx (h ▸ hy)
  · obtain ⟨w, hw, hne⟩ := withByte_word_ne hst (by omega) hx
    rw [withByte_frameImage_of_le x hp, hsum]
    rw [hst'] at hw
    cases hw
    exact hne.symm

/-- The gate never answers a Frame (R117). -/
theorem isFrame_of_readerGate {s : State} {r : Response} (h : s.readerGate = some r) : r.isFrame = false := by
  rcases (readerGate_eq_some_iff s r).1 h with ⟨-, rfl⟩ | ⟨-, rfl⟩ | ⟨-, rfl⟩
  · rfl
  · rfl
  · unfold State.latchedError
    split <;> rfl

/-- A Frame answer comes from a pass in Reading: the gate answers none. -/
theorem nextCase_of_frame_answer {s t : State} {p : List Byte} {c : Half} (h : exec .frNext s = .next t)
    (hresp : t.resp = s.resp ++ [.frame p c]) : s.rstate = .reading ∧ ∃ u, NextCase s (.frame p c) u := by
  obtain ⟨r, u, hc, rfl⟩ := exec_cases h
  rw [respond_resp, (execCase_params_resp hc).2] at hresp
  obtain rfl : r = .frame p c := by simpa using hresp
  cases hc with
  | next hr hc => exact ⟨hr, u, hc⟩
  | gate _ hg => cases isFrame_of_readerGate hg
  | answer _ hn => cases hn

/-- With one byte of a valid frame changed, and the first word no sentinel, `NextFrame` finds a mismatch. -/
theorem nextCase_withByte_mismatch {s u : State} {p : List Byte} {c : Half} {a : Nat} {x : Byte}
    (h : NextCase s (.frame p c) u) (hlo : 2 * s.cur ≤ a) (hhi : a < 2 * (s.cur + s.npay.toNat + 1))
    (hx : s.streamByte a ≠ some x) (hw0 : (withByte s a x).word s.cur ≠ some 0xA5A5#16) :
    ∃ stored computed v, NextCase (withByte s a x) (.integrityError stored computed) v ∧ stored ≠ computed ∧
      v.rstate = .failed ∧ v.err = 0x0082#16 ∧ v.fout = s.fout ∧ v.resp = s.resp := by
  cases h with
  | valid w0 ws _ ho hi hl hw hs hws hst hsum =>
    obtain ⟨w0', hw0'⟩ := withByte_word_exists hw hx
    obtain ⟨ws', hws'⟩ := withByte_wordsFrom_exists hws hx
    obtain ⟨stored', hst'⟩ := withByte_word_exists hst hx
    have hs' : w0' ≠ 0xA5A5#16 := fun h => hw0 (h ▸ hw0')
    have hne : checksum (payloadBytes s.params.hostBE ws') ≠ stored' := by
      have himage : payloadBytes s.params.hostBE ws' = (withByte s a x).frameImage :=
        payloadBytes_eq_frameImage (s := withByte s a x) hws'
      rw [himage]
      exact withByte_checksum_ne hlo hhi hx hst hst' (payloadBytes_eq_frameImage hws ▸ hsum)
    exact ⟨stored', _, _, .mismatch w0' ws' stored' ho hi hl hw0' hs' hws' hst' hne, hne.symm, rfl, rfl, rfl, rfl⟩

/-- With the first word of a valid frame changed to the sentinel, `NextFrame` ends the pass. -/
theorem nextCase_withByte_sentinel {s u : State} {p : List Byte} {c : Half} {a : Nat} {x : Byte}
    (h : NextCase s (.frame p c) u) (hw0 : (withByte s a x).word s.cur = some 0xA5A5#16) :
    ∃ v, NextCase (withByte s a x) .endOfStream v ∧ v.rstate = .terminated ∧ v.fout = s.fout ∧
      v.resp = s.resp := by
  cases h with
  | valid w0 ws _ ho hi hl =>
    exact ⟨_, .sentinelFound ho hi (show s.cur < s.wlen by omega) hw0, rfl, rfl, rfl⟩

/-- Settles O37: the changed frame's words still exist, so that FR.NEXT finds the sentinel or compares checksums that
differ. -/
theorem oneChangedByteIsDetected : Obligations.OneChangedByteIsDetected := by
  intro s t p c a x h hresp hlo hhi hx
  obtain ⟨hr, u, hc⟩ := nextCase_of_frame_answer h hresp
  refine ⟨fun hw0 => ?_, fun hw0 => ?_⟩
  · obtain ⟨stored, computed, v, hv, hne, hrs, herr, hfout, hresp⟩ :=
      nextCase_withByte_mismatch hc hlo hhi hx hw0
    exact ⟨_, stored, computed, exec_frNext_of_case (s := withByte s a x) hr hv,
      congrArg (· ++ [Response.integrityError stored computed]) hresp, hne, hrs, herr, hfout⟩
  · obtain ⟨v, hv, hrs, hfout, hresp⟩ := nextCase_withByte_sentinel hc hw0
    exact ⟨_, exec_frNext_of_case (s := withByte s a x) hr hv,
      congrArg (· ++ [Response.endOfStream]) hresp, hrs, hfout⟩

end Sys2Proof.Proofs

/-! # The round trip (41_frame_reader.md R119, R120, R123(a)) -/

namespace Sys2Proof.Proofs

open Sys2Proof.Machine Sys2Proof.Laws

/-! ### Reading back what a writer wrote (20_memory.md R56) -/

theorem wordsBytes_length (be : Bool) (ws : List Half) : (wordsBytes be ws).length = 2 * ws.length := by
  induction ws with
  | nil => rfl
  | cons w ws ih =>
    obtain ⟨b0, b1, hb, -⟩ := declaredWord_wordBytes be w
    simp only [wordsBytes, hb, List.length_append, List.length_cons, List.length_nil, ih]
    omega

/-- The words written from address `2*p` on, in the declared order, are the words read there. -/
theorem wordsFrom_of_wordsBytes {s : State} {p : Nat} {ws : List Half} {rest : List Byte}
    (h : s.stream.drop (2 * p) = wordsBytes s.declBE ws ++ rest) : s.wordsFrom p ws.length = some ws := by
  induction ws generalizing p with
  | nil => rfl
  | cons w ws ih =>
    obtain ⟨b0, b1, hb, hw⟩ := declaredWord_wordBytes s.declBE w
    have hdrop : s.stream.drop (2 * p) = b0 :: b1 :: (wordsBytes s.declBE ws ++ rest) := by
      rw [h, wordsBytes, hb]
      rfl
    have h0 : s.streamByte (2 * p) = some b0 := by
      rw [State.streamByte, ← List.head?_drop, hdrop, List.head?_cons]
    have h1 : s.streamByte (2 * p + 1) = some b1 := by
      rw [State.streamByte, ← List.getElem?_drop, hdrop]
      rfl
    have hnext : s.stream.drop (2 * (p + 1)) = wordsBytes s.declBE ws ++ rest := by
      rw [Nat.mul_succ, ← List.drop_drop, hdrop]
      rfl
    exact (wordsFrom_succ_eq_some s p _ _).2
      ⟨w, ws, (word_eq_some_iff s p w).2 ⟨b0, b1, ⟨h0, h1⟩, hw.symm⟩, ih hnext, rfl⟩

/-- The words of two pieces are the words of the first and then those of the second. -/
theorem wordsFrom_append_eq_some (s : State) (p : Nat) (l1 l2 : List Half) :
    s.wordsFrom p (l1 ++ l2).length = some (l1 ++ l2) ↔
      s.wordsFrom p l1.length = some l1 ∧ s.wordsFrom (p + l1.length) l2.length = some l2 := by
  induction l1 generalizing p with
  | nil => simp [State.wordsFrom]
  | cons w l1 ih =>
    simp only [List.cons_append, List.length_cons, wordsFrom_succ_eq_some, List.cons.injEq]
    constructor
    · rintro ⟨_, _, hw, hws, rfl, rfl⟩
      obtain ⟨h1, h2⟩ := (ih (p + 1)).1 hws
      exact ⟨⟨w, l1, hw, h1, rfl, rfl⟩, by rwa [Nat.add_comm l1.length, ← Nat.add_assoc]⟩
    · rintro ⟨⟨_, _, hw, h1, rfl, rfl⟩, h2⟩
      rw [Nat.add_comm l1.length, ← Nat.add_assoc] at h2
      exact ⟨w, l1 ++ l2, hw, (ih (p + 1)).2 ⟨h1, h2⟩, rfl, rfl⟩

/-! ### The stream of the writer -/

theorem streamWords_length {hostBE : Bool} {n : Nat} {frames : List (List Half)} (h : ∀ f ∈ frames, f.length = n) :
    (streamWords hostBE frames).length = frames.length * (n + 1) + 1 := by
  induction frames with
  | nil => simp [streamWords]
  | cons f frames ih =>
    obtain ⟨hf, hrest⟩ := List.forall_mem_cons.1 h
    simp only [streamWords, frameWords, List.length_append, List.length_cons, List.length_nil, ih hrest, hf]
    ring

/-- A frame whose payload does not begin with the sentinel does not begin with it: with no payload its first word is
the checksum of no byte, 0xFFFF. -/
theorem frameWords_head?_ne {hostBE : Bool} {f : List Half} (h : f.head? ≠ some 0xA5A5#16) :
    (frameWords hostBE f).head? ≠ some 0xA5A5#16 := by
  cases f with
  | nil => cases hostBE <;> decide
  | cons w f => exact h

/-- What FR.ALL reads of a frame the writer wrote. -/
def writtenFrame (hostBE : Bool) (f : List Half) : List Byte × Half :=
  (payloadBytes hostBE f, checksum (payloadBytes hostBE f))

/-- A pass that stands at the words `l` with the handle open and no I/O failure to come. -/
structure StandsAt (s : State) (n : Nat) (l : List Half) : Prop where
  hopen : s.hopen = true
  draws : ∀ d ∈ s.ioDraws, d = false
  npay : s.npay.toNat = n
  words : s.wordsFrom s.cur l.length = some l
  left : l.length ≤ s.wlen - s.cur

theorem StandsAt.ioFail {s : State} {n : Nat} {l : List Half} (h : StandsAt s n l) : s.ioFail = false := by
  unfold State.ioFail
  cases hd : s.ioDraws with
  | nil => rfl
  | cons d ds => exact h.draws d (by simp [hd])

theorem StandsAt.first_word {s : State} {n : Nat} {w : Half} {l : List Half} (h : StandsAt s n (w :: l)) :
    s.word s.cur = some w := by
  obtain ⟨w', _, hw, -, he⟩ := (wordsFrom_succ_eq_some s _ _ _).1 h.words
  cases he
  exact hw

/-- At a frame the writer wrote, `NextFrame` answers it, and the pass then stands at the words after it. -/
theorem nextCase_of_writtenFrame {s : State} {f l : List Half}
    (h : StandsAt s f.length (frameWords s.params.hostBE f ++ l)) (hf : f.head? ≠ some 0xA5A5#16) :
    ∃ t, NextCase s (.frame (payloadBytes s.params.hostBE f) (checksum (payloadBytes s.params.hostBE f))) t ∧
      StandsAt t f.length l := by
  have hlen : (frameWords s.params.hostBE f).length = f.length + 1 := by simp [frameWords]
  obtain ⟨hframe, hrest⟩ := (wordsFrom_append_eq_some s _ _ l).1 h.words
  rw [hlen] at hframe hrest
  obtain ⟨hws, hst⟩ := (wordsFrom_append s _ _ f _).1 hframe
  have hleft := h.left
  rw [List.length_append, hlen] at hleft
  obtain ⟨w0, rest, hfirst⟩ : ∃ w0 rest, frameWords s.params.hostBE f = w0 :: rest :=
    List.exists_cons_of_length_eq_add_one hlen
  have hs : w0 ≠ 0xA5A5#16 := fun he =>
    frameWords_head?_ne (hostBE := s.params.hostBE) hf (by rw [hfirst, he, List.head?_cons])
  have hw : s.word s.cur = some w0 := StandsAt.first_word (hfirst ▸ h)
  rw [← h.npay] at hws hst hleft hrest
  have hc : NextCase s (.frame (payloadBytes s.params.hostBE f) (checksum (payloadBytes s.params.hostBE f))) _ :=
    .valid w0 f _ h.hopen h.ioFail (by omega) hw hs hws hst rfl
  have hk := nextCase_keepsConfig hc
  obtain ⟨-, hcur, hwlen, -⟩ := hc.frame_consumes
  exact ⟨_, hc,
    { hopen := h.hopen
      draws := fun d hd => h.draws d (List.mem_of_mem_tail hd)
      npay := h.npay
      words := by rw [wordsFrom_congr hk.stream hk.declBE, hcur]; exact hrest
      left := by rw [hcur, hwlen]; omega }⟩

/-- From the writer's first frame on, the Frames of the pass are the frames written, and the sentinel is next. -/
theorem framesRead_of_streamWords {s : State} {n : Nat} {frames : List (List Half)}
    (h : StandsAt s n (streamWords s.params.hostBE frames))
    (hf : ∀ f ∈ frames, f.length = n ∧ f.head? ≠ some 0xA5A5#16) :
    ∃ m, FramesRead s (frames.map (writtenFrame s.params.hostBE)) m ∧ StandsAt m n [sentinel] := by
  induction frames generalizing s with
  | nil => exact ⟨s, .none s, h⟩
  | cons f frames ih =>
    obtain ⟨⟨rfl, hhead⟩, hrest⟩ := List.forall_mem_cons.1 hf
    obtain ⟨t, hc, ht⟩ := nextCase_of_writtenFrame h hhead
    have hp : t.params = s.params := (nextCase_keepsConfig hc).params
    rw [← hp] at ht
    obtain ⟨m, hm, hend⟩ := ih ht hrest
    rw [hp] at hm
    exact ⟨m, .more hc hm, hend⟩

/-- FR.ALL from the writer's first frame on: every payload in order, then EndOfStream at the sentinel. -/
theorem exec_frAll_of_standsAt {s : State} {n : Nat} {frames : List (List Half)} (hr : s.rstate = .reading)
    (h : StandsAt s n (streamWords s.params.hostBE frames))
    (hf : ∀ f ∈ frames, f.length = n ∧ f.head? ≠ some 0xA5A5#16) :
    ∃ u, exec .frAll s = .next u ∧ u.fout = s.fout ++ frames.map (payloadBytes s.params.hostBE) ∧
      u.rstate = .terminated ∧ u.err = s.err ∧ u.cur = s.cur + frames.length * (n + 1) + 1 ∧
      u.resp = s.resp ++ [.endOfStream] := by
  obtain ⟨m, hm, hend⟩ := framesRead_of_streamWords h hf
  have hcase : NextCase m .endOfStream _ :=
    .sentinelFound hend.hopen hend.ioFail (Nat.lt_of_sub_pos hend.left) hend.first_word
  obtain ⟨-, -, -, -, -, -, -, -, hresp, -, herr, -, -, hfout, hcur⟩ := hm.fields
  have hpayloads : (frames.map (writtenFrame s.params.hostBE)).map Prod.fst =
      frames.map (payloadBytes s.params.hostBE) := List.map_map
  rw [hpayloads] at hfout
  rw [List.length_map, h.npay] at hcur
  exact ⟨_, exec_frAll_of_cases hr hm hcase rfl, hfout, rfl, herr, congrArg (· + 1) hcur,
    congrArg (· ++ [Response.endOfStream]) hresp⟩

/-- Settles O35: FR.OPEN stands at the writer's words, and FR.ALL reads its frames and then the sentinel. -/
theorem roundTrip : Obligations.RoundTrip := by
  intro s be n frames tail hframes htail hdraws hsrc
  have hcount := streamWords_length (hostBE := s.params.hostBE) fun f hf => (hframes f hf).1
  have hlen : (wordsBytes be (streamWords s.params.hostBE frames) ++ tail).length / 2 =
      frames.length * (n.toNat + 1) + 1 + tail.length / 2 := by
    rw [List.length_append, wordsBytes_length, hcount]
    omega
  have heven : (wordsBytes be (streamWords s.params.hostBE frames) ++ tail).length % 2 = 0 := by
    rw [List.length_append, wordsBytes_length]
    omega
  have hopens := exec_frOpen_even be n hsrc heven
  rw [hlen] at hopens
  have hstand (r : Response) :
      StandsAt (((s.beginOpen be n).snapshot _).respond r) n.toNat (streamWords s.params.hostBE frames) :=
    { hopen := rfl
      draws := hdraws
      npay := rfl
      words := wordsFrom_of_wordsBytes (p := 0) (rest := tail) rfl
      left := by
        rw [hcount, respond_wlen, snapshot_wlen, hlen]
        exact Nat.le_add_right _ _ }
  obtain ⟨u, hall, hfout, hrs, herr, hcur, hresp⟩ := exec_frAll_of_standsAt rfl (hstand (.ok _)) hframes
  exact ⟨_, u, hopens, hall, hfout, hrs, herr, by simpa using hcur, by simpa using hresp⟩

end Sys2Proof.Proofs

/-! # The system command RDREG (42_system.md) -/

namespace Sys2Proof.Proofs

open Sys2Proof.Machine Sys2Proof.Laws

/-! ### The registers as RDREG answers them (R29, R35) -/

/-- The four bits of CFG occupy separate positions, so the OR of the shifted bits is their weighted sum (R29). -/
theorem cfg_toNat (s : State) :
    s.cfg.toNat = 8 * s.hopen.toNat + 4 * s.swap.toNat + 2 * s.params.hostBE.toNat + s.declBE.toNat := by
  have weights : ∀ hopen swap hostBE declBE : Bool,
      ((bitValue hopen <<< 3) ||| (bitValue swap <<< 2) ||| (bitValue hostBE <<< 1) ||| bitValue declBE).toNat =
        8 * hopen.toNat + 4 * swap.toNat + 2 * hostBE.toNat + declBE.toNat := by decide
  exact weights _ _ _ _

/-- A number of 10 or more names no register. -/
theorem register_eq_none (s : State) {r : Byte} (h : 10 ≤ r.toNat) : s.register r = none := by
  unfold State.register
  split
  case h_11 => rfl
  all_goals omega

/-! ### The command (R140, R141) -/

theorem exec_rdreg_of_some {s : State} {r : Byte} {v : Nat} (h : s.register r = some v) :
    exec (.rdreg r) s = .next (s.respond (.ok v)) := by
  simp only [exec, execRdreg, h]

theorem exec_rdreg_of_none {s : State} {r : Byte} (h : s.register r = none) :
    exec (.rdreg r) s = .next (s.respond .illegalCommand) := by
  simp only [exec, execRdreg, h, illegal]

/-- A word of RDREG's opcode decodes exactly when bits 23:8 are 0 and the number names a register (R75). -/
theorem decode_eq_ok_iff_of_rdreg_opcode {w : CmdWord} (hop : opField w = 0x20#8) (i : Instr) :
    decode w = .ok i ↔
      (w &&& 0x00FFFF00#32 = 0#32 ∧ .rdreg (imm8Field w) = i) ∧ (imm8Field w).toNat < 10 := by
  have hdecode : decode w = ifRegister (imm8Field w) (ifZero 0x00FFFF00#32 w (.rdreg (imm8Field w))) := by
    simp [decode, hop]
  rw [hdecode, ifRegister_eq_ok_iff, ifZero_eq_ok_iff]

/-- Settles O20: RDREG answers the register of its number, and CFG's value is the weighted sum of its bits. -/
theorem rdregAnswersTheRegister : Obligations.RdregAnswersTheRegister := by
  refine ⟨fun r hr => decode_encode (i := .rdreg r) (decide_eq_true hr), fun s => ?_⟩
  have hcfg : s.register 3#8 = some _ := congrArg some (cfg_toNat s)
  refine ⟨?_, ?_, ?_, exec_rdreg_of_some hcfg, ?_, ?_, ?_, ?_, ?_, ?_⟩ <;> exact exec_rdreg_of_some rfl

/-- Settles O21: neither kind of word decodes, and a number of 10 or more names no register. -/
theorem rdregOfNoRegisterIsIllegal : Obligations.RdregOfNoRegisterIsIllegal := by
  refine ⟨fun s w rest hs hop hbad => ?_, fun r s hr => exec_rdreg_of_none (register_eq_none s hr)⟩
  have hop : opField w = 0x20#8 := (opField_eq_iff w _).2 hop
  have hillegal : ¬ legalWord w := by
    rw [← decode_isOk_iff]
    rintro ⟨i, hi⟩
    obtain ⟨⟨hzero, -⟩, hlt⟩ := (decode_eq_ok_iff_of_rdreg_opcode hop i).1 hi
    rw [imm8Field_toNat] at hlt
    exact hbad.elim (· hzero) (Nat.not_le_of_lt hlt)
  exact (step_command hs).trans (runCommand_of_not_legalWord hillegal _)

end Sys2Proof.Proofs

/-! # Errors (60_exceptions.md) -/

namespace Sys2Proof.Proofs

open Sys2Proof.Machine Sys2Proof.Laws

/-! ### The error entry (R160) -/

/-- `Fail` writes ERR, RSTATE and HOPEN, the same three registers for each kind. -/
theorem fail_state (kind : ErrKind) (cause : Byte) (s : State) :
    (fail kind cause s).2 = { s with err := errValue kind cause, rstate := .failed, hopen := false } := by
  cases kind <;> rfl

/-- The status of `Fail`'s answer is the kind's code (R79, R155). -/
theorem fail_answer_status (kind : ErrKind) (cause : Byte) (s : State) :
    (fail kind cause s).1.status = kind.code := by
  cases kind <;> rfl

/-- Settles O25: the kind's code is both the answer's status and the low byte of ERR. -/
theorem failEntry : Obligations.FailEntry := by
  intro kind cause s
  have hkind : (fail kind cause s).2.errKind = kind.code := by
    rw [State.errKind, fail_err, errValue_kind]
  refine ⟨fail_state kind cause s, ?_, (fail_answer_status kind cause s).trans hkind.symm⟩
  rw [fail_answer]
  cases kind <;> rfl

/-! ### What an attempt to read a frame leaves when it fails (R161) -/

/-- From `s` to `u` the frame at the cursor was read whole and rejected: its stored word is not its checksum. -/
structure RejectsFrame (s u : State) : Prop where
  kind : u.errKind = 0x82#8
  cur : u.cur = s.cur + s.npay.toNat + 1
  fcrc : u.fcrc = u.errComputed
  computed : u.errComputed = checksum s.frameImage
  stored : s.word (s.cur + s.npay.toNat) = some u.errStored
  differ : u.errStored ≠ u.errComputed

/-- From `s` to `u` an I/O or format error was recorded and nothing was read. -/
structure ReadsNothing (s u : State) : Prop where
  kind : u.errKind = 0x80#8 ∨ u.errKind = 0x81#8
  cur : u.cur = s.cur
  fcrc : u.fcrc = s.fcrc
  errStored : u.errStored = s.errStored
  errComputed : u.errComputed = s.errComputed

/-- An attempt that enters Failed rejects a whole frame or reads nothing. -/
theorem nextCase_failed {s u : State} {r : Response} (h : NextCase s r u) (hn : r.isFrame = false)
    (hf : u.rstate = .failed) : RejectsFrame s u ∨ ReadsNothing s u := by
  cases h with
  | valid => cases hn
  | cleanEnd | sentinelFound => cases hf
  | closed => exact .inr ⟨.inl (errValue_kind .io 2#8), rfl, rfl, rfl, rfl⟩
  | ioFailure => exact .inr ⟨.inl (errValue_kind .io 1#8), rfl, rfl, rfl, rfl⟩
  | noWordLeft | incomplete => exact .inr ⟨.inr (errValue_kind .format 1#8), rfl, rfl, rfl, rfl⟩
  | mismatch _ ws stored _ _ _ _ _ hws hst hc =>
    exact .inl
      { kind := errValue_kind .integrity 0#8
        cur := rfl
        fcrc := rfl
        computed := congrArg checksum (payloadBytes_eq_frameImage hws)
        stored := hst
        differ := Ne.symm hc }

/-- An attempt that goes from Reading to Failed answers no Frame. -/
theorem nextCase_isFrame_of_failed {s u : State} {r : Response} (h : NextCase s r u) (hr : s.rstate = .reading)
    (hf : u.rstate = .failed) : r.isFrame = false := by
  cases h with
  | valid => cases hr.symm.trans hf
  | _ => rfl

/-- An attempt that answers no Frame leaves the handle closed (R185). -/
theorem nextCase_hopen {s u : State} {r : Response} (h : NextCase s r u) (hn : r.isFrame = false) :
    u.hopen = false := by
  cases h with
  | valid => cases hn
  | _ => rfl

/-- Settles O32: the attempt FR.NEXT makes rejects a frame or reads nothing. -/
theorem nextErrorsArePrecise : Obligations.NextErrorsArePrecise := by
  intro s t hr h hf
  obtain ⟨r, u, hc, rfl⟩ := exec_frNext_cases hr h
  have hn := nextCase_isFrame_of_failed hc hr hf
  refine ⟨nextCase_fout (u := u) hc hn, nextCase_hopen (u := u) hc hn, ?_⟩
  rcases nextCase_failed hc hn hf with hrej | hnone
  · exact .inl ⟨hrej.kind, hrej.cur, hrej.fcrc, hrej.differ⟩
  · exact .inr ⟨hnone.kind, hnone.cur, hnone.fcrc, hnone.errStored, hnone.errComputed⟩

/-! ### The failing frame of FR.ALL (R115) -/

/-- The frame's image depends on the configuration, STREAM and the cursor alone. -/
theorem frameImage_congr {s t : State} (hk : KeepsConfig s t) (hc : t.cur = s.cur) : t.frameImage = s.frameImage := by
  have hswap : t.swap = s.swap := by simp only [State.swap, hk.declBE, hk.params]
  simp only [State.frameImage, hswap, hk.stream, hk.npay, hc]

/-- So does which frame is rejected. -/
theorem rejectsFrame_congr {s t u : State} (hk : KeepsConfig s t) (hc : t.cur = s.cur) (h : RejectsFrame t u) :
    RejectsFrame s u where
  kind := h.kind
  cur := by rw [h.cur, hc, hk.npay]
  fcrc := h.fcrc
  computed := by rw [h.computed, frameImage_congr hk hc]
  stored := by rw [← h.stored, hc, hk.npay, word_congr hk.stream hk.declBE]
  differ := h.differ

/-- A run of Frames leaves the cursor past as many frames as it read. -/
theorem framesRead_cur {s m : State} {fs : List (List Byte × Half)} (h : FramesRead s fs m) :
    m.cur = (s.atFrame fs.length).cur := by
  obtain ⟨-, -, -, -, -, -, -, -, -, -, -, -, -, -, hcur⟩ := h.fields
  exact hcur

/-- Moving the cursor past frames keeps all else. -/
theorem keepsConfig_atFrame {s m : State} (h : KeepsConfig s m) (j : Nat) : KeepsConfig (s.atFrame j) m :=
  ⟨h.crc, h.npay, h.declBE, h.wlen, h.src, h.params, h.host, h.stream, h.resp⟩

/-- A frame rejected after a run of Frames is the one just past them. -/
theorem rejectsFrame_atFrame {s m u : State} {fs : List (List Byte × Half)} (hfs : FramesRead s fs m)
    (h : RejectsFrame m u) : RejectsFrame (s.atFrame fs.length) u :=
  rejectsFrame_congr (keepsConfig_atFrame (framesRead_keepsConfig hfs) _) (framesRead_cur hfs) h

/-- Settles O33: the Frames before the failing attempt are valid, and the attempt rejects the frame just past them or
reads nothing. -/
theorem allErrorsArePrecise : Obligations.AllErrorsArePrecise := by
  intro s t hr h hf
  obtain ⟨fs, m, r, u, hfs, hc, hn, -, rfl⟩ := exec_frAll_cases hr h
  have hlen : (fs.map Prod.fst).length = fs.length := List.length_map _
  refine ⟨fs.map Prod.fst, (nextCase_fout hc hn).trans (framesRead_fout hfs),
    fun j p hj => framesRead_validFrame hfs hj, ?_⟩
  rw [hlen]
  rcases nextCase_failed hc hn hf with hrej | hnone
  · have hrej := rejectsFrame_atFrame hfs hrej
    obtain ⟨c0, c1, hbytes, hval⟩ := (word_eq_some_iff _ _ _).1 hrej.stored
    have hcur : u.cur = (s.atFrame (fs.length + 1)).cur := by
      rw [← atFrame_atFrame, hrej.cur, atFrame_cur _ 1, Nat.one_mul, Nat.add_assoc]
    exact .inl ⟨hrej.kind, hcur, hrej.computed, ⟨c0, c1, hbytes, hval⟩, hrej.differ⟩
  · exact .inr ⟨hnone.kind, hnone.cur.trans (framesRead_cur hfs)⟩

end Sys2Proof.Proofs

/-! # Reset, the host interface and the two families (70_reset_and_hazards.md) -/

namespace Sys2Proof.Proofs

open Sys2Proof.Machine Sys2Proof.Laws

/-! ### The host's actions (R180, R182, R186) -/

/-- A step with an action pending takes it from the queue and performs it. -/
theorem step_of_pending {s : State} {a : HostAction} {rest : List HostAction} (h : s.host = a :: rest) :
    step s = perform a { s with host := rest } := by
  rw [step, h]

/-- Settles O5: with an empty queue a step answers the state it found. -/
theorem waitsForTheNextAction : Obligations.WaitsForTheNextAction := by
  intro s h
  rw [step, h]

/-- Settles O6: what RESET performs is `applyReset`, whose fields are those of the reset table. -/
theorem resetPutsEveryRegister : Obligations.ResetPutsEveryRegister :=
  fun _ _ h => step_of_pending h

/-- Settles O7: what BIND performs is the update of SRC. -/
theorem bindSetsTheSourceAlone : Obligations.BindSetsTheSourceAlone :=
  fun _ _ _ h => step_of_pending h

/-! ### The two command families (R188) -/

/-- A CRC command gives CRC a value computed from CRC alone and answers it, in every state. -/
theorem exec_crcCommand {i : Instr} (hi : isCrcCommand i = true) :
    ∃ f : Half → Half, ∀ s, exec i s = .next ((s.setCrc (f s.crc)).respond (.ok (f s.crc).toNat)) := by
  cases i with
  | crcLoad v => exact ⟨fun _ => v, fun _ => rfl⟩
  | crcInit => exact ⟨fun _ => crcInitValue, fun _ => rfl⟩
  | crcByte b => exact ⟨fun c => crcStep c b, fun _ => rfl⟩
  | _ => cases hi

/-- The Frame Reader's commands are the reading commands, FR.OPEN and FR.CLOSE. -/
theorem isReaderCommand_eq_true_iff (i : Instr) :
    isReaderCommand i = true ↔ isReadCommand i = true ∨ (∃ be n, i = .frOpen be n) ∨ i = .frClose := by
  cases i <;> simp [isReaderCommand, isReadCommand]

/-- From `s`, whatever CRC and RESP are, the command `i` answers `r` and leaves `u` but for CRC, which it keeps, and
RESP, to which it appends `r`. -/
def CompletesForAllPorts (i : Instr) (s : State) (r : Response) (u : State) : Prop :=
  ∀ (c : Half) (l : List Response),
    exec i { s with crc := c, resp := l } = .next { u with crc := c, resp := l ++ [r] }

/-- A reading command that completes does the same for all values of CRC and RESP. -/
theorem exec_read_with_ports {i : Instr} {s t : State} (hi : isReadCommand i = true) (h : exec i s = .next t) :
    ∃ r u, CompletesForAllPorts i s r u := by
  obtain ⟨r, u, hc, -⟩ := exec_read_cases hi h
  refine ⟨r, u, fun c l => ?_⟩
  cases hc with
  | gate _ hg => exact exec_read_of_gate (s := { s with crc := c, resp := l }) hi hg
  | readw hr hc => exact exec_frReadw_of_case (s := { s with crc := c, resp := l }) hr (hc.with_ports c l)
  | next hr hc => exact exec_frNext_of_case (s := { s with crc := c, resp := l }) hr (hc.with_ports c l)
  | all hr hf hc hn =>
    exact exec_frAll_of_cases (s := { s with crc := c, resp := l }) hr (hf.with_ports c l) (hc.with_ports c l) hn
  | openAbsent | openOdd | opens => cases hi
  | crc _ hn | close hn | answer _ hn => cases hn.symm.trans hi

/-- FR.OPEN does the same for all values of CRC and RESP. -/
theorem exec_frOpen_with_ports (be : Bool) (n : Half) (s : State) :
    ∃ r u, CompletesForAllPorts (.frOpen be n) s r u := by
  cases hs : s.src with
  | none => exact ⟨_, (s.beginOpen be n).openError .io, fun _ _ => exec_frOpen_absent be n hs⟩
  | some bytes =>
    by_cases hl : bytes.length % 2 = 0
    · exact ⟨_, (s.beginOpen be n).snapshot bytes, fun _ _ => exec_frOpen_even be n hs hl⟩
    · exact ⟨_, (s.beginOpen be n).openError .format, fun _ _ => exec_frOpen_odd be n hs hl⟩

/-- A Frame Reader command that completes does the same for all values of CRC and RESP. -/
theorem exec_reader_with_ports {i : Instr} {s t : State} (hi : isReaderCommand i = true) (h : exec i s = .next t) :
    ∃ r u, CompletesForAllPorts i s r u := by
  rcases (isReaderCommand_eq_true_iff i).1 hi with hr | ⟨be, n, rfl⟩ | rfl
  · exact exec_read_with_ports hr h
  · exact exec_frOpen_with_ports be n s
  · exact ⟨.ok 0, { s with hopen := false }, fun _ _ => rfl⟩

/-- A Frame Reader command completes or meets an address that STREAM does not have; it is never refused. -/
theorem exec_reader_next_or_fault {i : Instr} (hi : isReaderCommand i = true) (s : State) :
    (∃ t, exec i s = .next t) ∨ exec i s = .fault .streamAddress := by
  rcases (isReaderCommand_eq_true_iff i).1 hi with hr | ⟨be, n, rfl⟩ | rfl
  · exact exec_read_next_or_fault hr s
  · obtain ⟨r, u, hu⟩ := exec_frOpen_with_ports be n s
    exact .inl ⟨_, hu s.crc s.resp⟩
  · exact .inl ⟨_, rfl⟩

/-- Changing CRC changes nothing that a Frame Reader command does: what completes for one value of CRC completes for
the other, so that what faults for one faults for the other. -/
theorem exec_reader_with_crc {i : Instr} (hi : isReaderCommand i = true) (s : State) (c : Half) :
    exec i { s with crc := c } = mapNext (fun t => { t with crc := c }) (exec i s) := by
  rcases exec_reader_next_or_fault hi s with ⟨t, ht⟩ | hf
  · obtain ⟨r, u, hu⟩ := exec_reader_with_ports hi ht
    have hs : exec i s = .next { u with crc := s.crc, resp := s.resp ++ [r] } := hu s.crc s.resp
    rw [hs]
    exact hu c s.resp
  · rcases exec_reader_next_or_fault hi { s with crc := c } with ⟨t, ht⟩ | hf'
    · obtain ⟨r, u, hu⟩ := exec_reader_with_ports hi ht
      cases hf.symm.trans (hu s.crc s.resp)
    · rw [hf, hf', mapNext]

/-- What a CRC command does to CRC and RESP it does alike with any Frame Reader state beside them. -/
theorem exec_crc_withReaderOf {i : Instr} (hi : isCrcCommand i = true) (s u : State) :
    exec i (s.withReaderOf u) = mapNext (fun t => t.withReaderOf u) (exec i s) := by
  obtain ⟨f, hf⟩ := exec_crcCommand hi
  rw [hf, hf]
  rfl

/-- Settles O39: a Frame Reader command keeps CRC and does the same for every CRC and RESP, a CRC command does the same
beside every Frame Reader state, so that in either order each does what it does alone. -/
theorem crcAndFcrcAreIndependent : Obligations.CrcAndFcrcAreIndependent := by
  refine ⟨fun i s c hi => exec_reader_with_crc hi s c, fun i s u hi => exec_crc_withReaderOf hi s u,
    fun i j s t u hi hj hit hju => ?_⟩
  obtain ⟨f, hf⟩ := exec_crcCommand hi
  obtain ⟨b, m, hm⟩ := exec_reader_with_ports hj hju
  let a : Response := .ok (f s.crc).toNat
  have ht : t = (s.setCrc (f s.crc)).respond a := by simpa [hf] using hit.symm
  have hu : u = { m with crc := s.crc, resp := s.resp ++ [b] } := by
    simpa [hju] using hm s.crc s.resp
  subst ht hu
  exact ⟨a, b, _, _, hm (f s.crc) (s.resp ++ [a]), hf _, rfl, List.append_assoc s.resp [a] [b], rfl,
    List.append_assoc s.resp [b] [a], rfl⟩

end Sys2Proof.Proofs
